-- ==== Sys2Proof/Word.lean ====
section
/-!
DEFINITION. The word types the manual uses: bytes of the bay bus and the meter line, the 16-bit words of the
exchange memory (R147), and the two-word quantities (R169).
-/
namespace Sys2Proof

/-- A byte of a frame, of a sample or of a byte field. -/
abbrev Byte := BitVec 8

/-- One word of the exchange memory or of a register (R147). -/
abbrev Word := BitVec 16

/-- A word address of the exchange memory, 0x0000 to 0x7FFF (R169). -/
abbrev WordAddr := BitVec 15

/-- A quantity of two words: counters, clocks, energies, powers (R169). -/
abbrev DWord := BitVec 32

end Sys2Proof
end

