-- ==== Sys2Proof/Config.lean ====
section
/-!
DEFINITION. What the manual leaves open and the model does not choose: constants without a body, so that no proof can
see their values (log entries 14 and 21).
-/
namespace Sys2Proof

/-- The part code that IDENT reads (R148 names the field and gives no value). DESIGN CHOICE (log entry 21): it has 8 bits. -/
opaque Config.partCode : Byte

/-- The revision that IDENT reads (R148 names the field and gives no value). DESIGN CHOICE (log entry 21): it has 8 bits. -/
opaque Config.revision : Byte

/-- How a two-valued byte of a module's answer counts when it holds neither 0 nor 1 (R169 and R173 list 0 and 1 alone). -/
opaque Config.unlistedFlag : Byte → Bool

/-- Whether a connector byte of a POLL answer that holds none of the listed codes 0, 1 and 2 (R173) counts as a vehicle
present. -/
opaque Config.unlistedConnector : Byte → Bool

end Sys2Proof
end

