-- ==== Sys2Proof/Syntax.lean ====
section
/-!
DEFINITION. The commands of the part: one constructor of Instr for each row of the opcode table. The table gives its rows
no operands; the ones here are what the event brings with it (log entry 1).
-/
namespace Sys2Proof

/-- The levels of the straps at the release of RESET (R163). -/
structure Straps where
  fit1 : Bool
  fit0 : Bool
  bayspd : Bool
  holdpol : Bool
  deriving DecidableEq, Repr

/-- One word the host writes into the exchange memory (R147): a word address and the value. -/
structure HostWrite where
  addr : WordAddr
  value : Word
  deriving DecidableEq, Repr

/-- What can reach the Exchange Unit while a sweep is in progress (R147, R149, R151). -/
inductive SweepEvent where
  /-- host words written into the exchange memory -/
  | words (ws : List HostWrite)
  /-- a write to WAKE or an expiry of the sweep timer -/
  | ask
  /-- the command RUN written to SITE_CTL -/
  | run
  /-- the command RESTART written to SITE_CTL -/
  | restart
  deriving DecidableEq, Repr

/-- An event that reaches the Exchange Unit just before the slot visit numbered `visit` (0 to 47) of the sweep. -/
structure SweepArrival where
  visit : Nat
  event : SweepEvent
  deriving DecidableEq, Repr

/-- One band of a tariff table (section 7.2). -/
structure Band where
  startMinute : Nat
  gridPrice : Nat
  sunPrice : Nat
  batteryPrice : Nat
  idlePrice : Nat
  topUp : Bool
  deriving DecidableEq, Repr

/-- The fields of SET_SITE in the order of section 10.4. The overrides hold the manual's own numbers (R169): fitted-bay
override 0 (NONE), 8, 16 or 24; bus speed override 0 (NONE), 1 (115.2 kbit/s) or 2 (460.8 kbit/s); FREE authority 0 or 1. -/
structure SiteSettings where
  importCap : Nat
  feederLimit : Nat
  exportLimit : Nat
  margin : Nat
  intervalTarget : Nat
  holdLineLimit : Nat
  reserveFloor : Nat
  topUpTarget : Nat
  dischargeLimit : Nat
  chargeLimit : Nat
  freeAuthority : Nat
  noticeThreshold : Nat
  noticeLinger : Nat
  idleGrace : Nat
  fittedOverride : Nat
  speedOverride : Nat
  priorityFlags : DWord
  deriving DecidableEq, Repr

/-- One byte of the meter line, and whether the line was idle for at least two character times before it (R49; log
entry 41). -/
structure MeterByte where
  value : Byte
  afterIdle : Bool
  deriving DecidableEq, Repr

/-- An answer frame as received after its lead byte (R173). -/
structure AnswerFrame where
  address : Byte
  tag : Byte
  kind : Byte
  complement : Byte
  length : Byte
  payload : List Byte
  check : Byte
  deriving DecidableEq, Repr

/-- The register writes that have no effect (R148, R149). -/
inductive InertWrite where
  /-- a write to IDENT -/
  | ident (value : Word)
  /-- a write to ATTN -/
  | attn (value : Word)
  /-- a SITE_CTL write carrying RUN and RESTART together -/
  | siteCtlBoth
  /-- a SITE_CTL write carrying neither command -/
  | siteCtlNeither
  deriving DecidableEq, Repr

/-- How a store write ends (R128): its read-back check passes, or it fails and leaves the stored item whole or damaged. -/
inductive StoreResult where
  | passed
  | failed (damages : Bool)
  deriving DecidableEq, Repr

/-- A bay, as its number less one: bay numbers run from 1 to 24 (section 4.3). -/
abbrev BayIx := Fin 24

/-- The commands: one constructor for each row of the opcode table, in its order. -/
inductive Instr where
  | powerOnReset (straps : Straps) (holdIn : Bool)
  | run
  | restart
  | setSiteRestart
  | wake (value : Word) (writes : List HostWrite) (arrivals : List SweepArrival)
  | sweepTimer (writes : List HostWrite) (arrivals : List SweepArrival)
  | setSite (slot : Fin 48) (ticket offset : Word) (settings : SiteSettings)
  | setClock (slot : Fin 48) (ticket : Word) (clock offset : DWord)
  | authorise (slot : Fin 48) (ticket bay : Word) (account : BitVec 128) (limit : DWord)
  | stopSession (slot : Fin 48) (ticket bay : Word)
  | parkBay (slot : Fin 48) (ticket bay : Word)
  | returnBay (slot : Fin 48) (ticket bay : Word)
  | enrolBay (slot : Fin 48) (ticket address : Word)
  | postVoucher (slot : Fin 48) (ticket : Word) (code : BitVec 64) (kind value : Word) (expiry : DWord)
  | withdrawVoucher (slot : Fin 48) (ticket : Word) (code : BitVec 64)
  | setTariff (slot : Fin 48) (ticket offset : Word) (bands : List Band)
  | lockTariff (slot : Fin 48) (ticket : Word)
  | unlockTariff (slot : Fin 48) (ticket : Word)
  | setCounters (slot : Fin 48) (ticket : Word) (session receipt : DWord)
  | gridHold (slot : Fin 48) (ticket : Word) (limit : DWord) (minutes : Word)
  | cancel (slot : Fin 48) (ticket named namedTicket : Word)
  | attnRead
  | attnMaskWrite (value : Word)
  | registerWriteNoEffect (write : InertWrite)
  | busFreeTakeFrame
  | frameSent
  | answerReceived (answer : AnswerFrame)
  | answerTimeout
  | answerAborted
  | strayBytes
  | broadcastWindowEnd
  | schedulerCycle
  | sampleReceived (bytes : List MeterByte)
  | sampleAbort
  | meterLost
  | blindTimer
  | holdLineChange (level : Bool)
  | holdDeadline
  | holdRequestEnd
  | returnTimer
  | cooldownEnd (bay : BayIx)
  | voucherExpiryCheck
  | intervalEnd
  | storeWriteComplete (result : StoreResult)
  | lingerTimer
  | pageTimer
  | pageRewriteEnd
  | resetDrivenLow
  | siteClockAdvance
  deriving DecidableEq, Repr

end Sys2Proof
end

