-- ==== Sys2Proof/Machine/State.lean ====
section
/-!
DEFINITION. The state of the part as plain data: every piece of state the manual gives the eight units, the nonvolatile
store and the latched pins, the queue of waiting commands, and the machine right after reset. INVENTORY.md lists every
field with its rule and its reset value.
-/
namespace Sys2Proof.Machine

/-- One byte of the exchange memory at its byte address: word `w` is the bytes `2w` (more significant) and `2w + 1`. -/
abbrev Memory := List Host.Cell

/-- A string converter, string number less one (R1: addresses 41 to 46). -/
abbrev StringIx := Fin 6

/-- One of the 31 bay bus targets (R1). -/
inductive Target where
  | bay (b : BayIx)
  | string (i : StringIx)
  | store
  deriving DecidableEq, Repr

/-! ## Bay Link Unit -/

inductive LinkState where
  | unnamed | named | parked
  deriving DecidableEq, Repr

inductive Fit where
  | isIn | beyond | mismatch
  deriving DecidableEq, Repr

inductive ModuleClass where
  | bay | canopy | store
  deriving DecidableEq, Repr

/-- The kinds of a completed enrolment (R9). -/
inductive EnrolKind where
  | first | same | replaced
  deriving DecidableEq, Repr

inductive Lane where
  | urgent | ordinary
  deriving DecidableEq, Repr

/-- A setpoint of the store converter: signed W, positive for discharge, or the order to form the grid (R22). -/
inductive Setpoint where
  | watts (w : Int)
  | formGrid
  deriving DecidableEq, Repr

/-- The screen messages of R28. -/
inductive Message where
  | enterCode | codeRefused | outOfService | waiting | charging | finished
  deriving DecidableEq, Repr

/-- The frames the part sends (R173). Grants and ceilings are in 100 W units. -/
inductive FrameBody where
  | who
  | name (tag : Byte)
  | poll
  | grant (units : Nat)
  | lock
  | release
  | show (message : Message)
  | park
  | cap (units : Nat)
  | setpoint (value : Setpoint)
  deriving DecidableEq, Repr

/-- A frame and where it goes; no target is the broadcast address 0. -/
structure Frame where
  target : Option Target
  body : FrameBody
  deriving DecidableEq, Repr

/-- A frame waiting in a lane; `head` marks a head-placed POLL (R20), `cycle` a frame of the current scheduler cycle
(R19). -/
structure LaneEntry where
  frame : Frame
  head : Bool
  cycle : Bool
  deriving DecidableEq, Repr

/-- The resend set of a module record (R4). A GRANT, CAP or SETPOINT remembers the lane its missed frame came from. -/
structure ResendSet where
  grant : Option Lane
  latch : Bool
  park : Bool
  cap : Option Lane
  setpoint : Option Lane
  deriving DecidableEq, Repr

def ResendSet.empty : ResendSet := ⟨none, false, false, none, none⟩

/-- A module record (section 1.3). `enrol` keeps the kind of the enrolment in progress from the WHO answer to the
acknowledgement of NAME (R8, R9). -/
structure ModuleRec where
  link : LinkState
  fit : Fit
  serial : Option (BitVec 64)
  cls : Option ModuleClass
  rating : Nat
  lastPoll : Option Nat
  lastWho : Option Nat
  tag : Byte
  energy : Option Nat
  missed : Nat
  resend : ResendSet
  issuedGrant : Nat
  issuedCap : Nat
  issuedSetpoint : Setpoint
  enrol : Option EnrolKind
  deriving DecidableEq, Repr

/-- The record values after power-on reset (section 1.3), by fit. -/
def ModuleRec.reset (fit : Fit) : ModuleRec :=
  { link := .unnamed, fit := fit, serial := none, cls := none, rating := 0, lastPoll := none, lastWho := none, tag := 0,
    energy := none, missed := 0, resend := .empty, issuedGrant := 0, issuedCap := 0, issuedSetpoint := .watts 0,
    enrol := none }

/-- One exchange (section 1.2): the frame, the lane it was taken from, the tag it bears, and whether this is the retry.
`stale` marks a NAME overtaken by a roll call (R11), `withdrawn` a PARK whose request was cancelled (R21). -/
structure Exchange where
  frame : Frame
  lane : Lane
  tag : Byte
  retry : Bool
  stale : Bool
  withdrawn : Bool
  deriving DecidableEq, Repr

/-- The bay bus: free; a frame leaving; its answer awaited; a frame leaving that a site restart has abandoned (R23); the
hold window after a broadcast (R5). -/
inductive Bus where
  | idle
  | sending (x : Exchange)
  | awaiting (x : Exchange)
  | abandoned
  | window
  deriving DecidableEq, Repr

structure BayLink where
  recs : Vector ModuleRec 31
  nextTag : Byte
  urgent : List LaneEntry
  ordinary : List LaneEntry
  bus : Bus
  cycleStart : Option Nat
  frameErrors : DWord
  missedPolls : DWord
  replacedModules : DWord
  deriving DecidableEq, Repr

/-! ## Session Unit -/

/-- The bay states (section 2.2). -/
inductive BayState where
  | unfitted | seeking | vacant | plugged | awaitPower | charging | sated | ending | faulted | silent | parked
  deriving DecidableEq, Repr

inductive Latch where
  | lock | release
  deriving DecidableEq, Repr

/-- A bay record (section 2.1). -/
structure BayRec where
  state : BayState
  change : Word
  latch : Latch
  session : Option Nat
  power : Nat
  lowStart : Option Nat
  highCount : Nat
  wrongCodes : List Nat
  cooldown : Option Nat
  parkPending : Bool
  freePending : Bool
  deriving DecidableEq, Repr

/-- A bay record after power-on reset (section 2.1), by bay state. -/
def BayRec.reset (state : BayState) : BayRec :=
  { state := state, change := 0, latch := .release, session := none, power := 0, lowStart := none, highCount := 0,
    wrongCodes := [], cooldown := none, parkPending := false, freePending := false }

inductive Authority where
  | voucher | account | free
  deriving DecidableEq, Repr

/-- The end causes (R31). -/
inductive EndCause where
  | unplugged | stopButton | stoppedByRequest | energyLimit | segmentLimit | bayFault | baySilent | moduleReplaced
  | siteRestart
  deriving DecidableEq, Repr

/-- A segment (section 7.3); `band` is 1 to 8. -/
structure Segment where
  band : Nat
  generation : DWord
  gridPrice : Nat
  sunPrice : Nat
  batteryPrice : Nat
  sun : Nat
  battery : Nat
  grid : Nat
  deriving DecidableEq, Repr

/-- What the first start of a session's idle clock records (R122). -/
structure IdleFirst where
  band : Nat
  generation : DWord
  price : Nat
  grace : Nat
  deriving DecidableEq, Repr

/-- The idle record of a session (section 7.4): SATED seconds counted, the elapsed time the clock last started while it
runs, and what the first start recorded. -/
structure IdleRec where
  seconds : Nat
  running : Option Nat
  first : Option IdleFirst
  deriving DecidableEq, Repr

inductive LineKind where
  | energy | idle | voucher
  deriving DecidableEq, Repr

/-- A receipt line (R123, R141). -/
structure Line where
  kind : LineKind
  band : Nat
  generation : DWord
  figure : Nat
  amount : Nat
  deriving DecidableEq, Repr

/-- What the Pricing Unit freezes at close (R123, R124). -/
structure Bill where
  lines : List Line
  subtotal : Nat
  credit : Nat
  total : Nat
  deriving DecidableEq, Repr

/-- A session record (section 2.5). `isOpen` is OPEN, its absence UNBILLED. -/
structure Session where
  number : Nat
  bay : BayIx
  opened : Nat
  closed : Option Nat
  authority : Authority
  account : Option (BitVec 128)
  voucher : Option (BitVec 64)
  limit : Option Nat
  lastReading : Option Nat
  total : Nat
  sun : Nat
  battery : Nat
  grid : Nat
  sunRes : Nat
  batteryRes : Nat
  segments : List Segment
  idle : IdleRec
  cause : Option EndCause
  isOpen : Bool
  bill : Option Bill
  deriving DecidableEq, Repr

inductive VoucherKind where
  | amount | percent
  deriving DecidableEq, Repr

/-- A voucher table entry (R43). -/
structure Voucher where
  code : BitVec 64
  kind : VoucherKind
  value : Nat
  expiry : Nat
  inUse : Bool
  deriving DecidableEq, Repr

structure SessionUnit where
  bays : Vector BayRec 24
  table : List Session
  vouchers : List Voucher
  voids : DWord
  deriving DecidableEq, Repr

/-! ## Meter Unit -/

/-- The receiver of the meter line (R49): waiting for a lead byte, or inside a sample with the bytes received after it. -/
inductive Receiver where
  | waiting
  | inside (received : List Byte)
  deriving DecidableEq, Repr

inductive MeterState where
  | live | blind
  deriving DecidableEq, Repr

/-- The fields of the last accepted sample (R51). -/
structure Sample where
  seq : Word
  gridPower : Int
  gridPresent : Bool
  shop : Nat
  feeder : Nat
  canopy : Nat
  flow : Int
  deriving DecidableEq, Repr

/-- The provenance shares in permille (R60). -/
structure Shares where
  sun : Nat
  battery : Nat
  grid : Nat
  deriving DecidableEq, Repr

structure MeterUnit where
  receiver : Receiver
  lastSeq : Option Word
  latest : Sample
  arrival : Option Nat
  state : MeterState
  watch : Option Nat
  shares : Shares
  intervalStart : Nat
  used : Nat
  residue : Nat
  exceeded : Bool
  gaps : DWord
  exceedances : DWord
  deriving DecidableEq, Repr

/-! ## Allotment Unit -/

inductive Stance where
  | supporting | soaking | topping | idle
  deriving DecidableEq, Repr

/-- The Allotment Unit's own state (chapter 4). Grants are in W; a ceiling is OPEN (`none`) or a value in 100 W units. -/
structure AllotUnit where
  grants : Vector Nat 24
  waitList : List BayIx
  mark : BayIx
  budget : Nat
  blindBudget : Nat
  blindTimer : Bool
  setpoint : Setpoint
  stance : Stance
  ceilings : Vector (Option Nat) 6
  deriving DecidableEq, Repr

inductive HoldState where
  | clear | requested | met | missed
  deriving DecidableEq, Repr

/-- An active request source (R87): its limit, its end in elapsed time, and the holder place of the GRID_HOLD that set
it while that request is unanswered. -/
structure HoldRequest where
  limit : Nat
  endTime : Nat
  asker : Option (Fin 8)
  deriving DecidableEq, Repr

structure HoldController where
  lineActive : Bool
  request : Option HoldRequest
  state : HoldState
  deadline : Option Nat
  good : Nat
  ack : Bool
  deriving DecidableEq, Repr

inductive GridState where
  | present | lost | returning
  deriving DecidableEq, Repr

inductive ReturnTimer where
  | stopped
  | running (expiry : Nat)
  | runOut
  deriving DecidableEq, Repr

structure GridWatch where
  state : GridState
  timer : ReturnTimer
  deriving DecidableEq, Repr

/-! ## Store Unit -/

/-- The link view of a converter (section 6.1). -/
inductive ConvLink where
  | none | up | down
  deriving DecidableEq, Repr

/-- The battery conditions (section 6.2). -/
inductive Condition where
  | offline | ready | reserve | backup | fault
  deriving DecidableEq, Repr

/-- A string record (section 6.7). -/
structure StringRec where
  link : ConvLink
  rating : Nat
  fault : Nat
  output : Option Nat
  deriving DecidableEq, Repr

def StringRec.reset : StringRec := ⟨.none, 0, 0, none⟩

structure StoreUnit where
  link : ConvLink
  rating : Nat
  soc : Option Nat
  flow : Int
  fault : Nat
  forming : Bool
  reserve : Bool
  gridAbsent : Bool
  holdMissed : Bool
  condition : Condition
  discharge : Nat
  charge : Nat
  strings : Vector StringRec 6
  topUp : Bool
  deriving DecidableEq, Repr

/-! ## Pricing Unit and the nonvolatile store -/

/-- The tariff item of the store (section 7.7). -/
structure TariffItem where
  bands : List Band
  generation : DWord
  locked : Bool
  lockCount : DWord
  deriving DecidableEq, Repr

inductive NumberKind where
  | session | receipt
  deriving DecidableEq, Repr

/-- A store write asked (R128). A write that a request asked for names the request's holder place, until the request is
answered without it (site restart). -/
inductive StoreJob where
  | tariff (place : Option (Fin 8)) (bands : List Band)
  | lock (place : Option (Fin 8))
  | unlock (place : Option (Fin 8))
  | block (kind : NumberKind) (base : Nat)
  deriving DecidableEq, Repr

/-- The write in progress, with the tariff item it writes (unused for a block write). -/
structure ActiveWrite where
  job : StoreJob
  item : TariffItem
  deriving DecidableEq, Repr

/-- The numbers of one kind (R129): next number, or none while the base is damaged and not supplied; base in force; valid
mark; the base last asked of the store. -/
structure NumberBlock where
  next : Option Nat
  base : Nat
  valid : Bool
  asked : Option Nat
  deriving DecidableEq, Repr

structure DamageMarks where
  tariff : Bool
  session : Bool
  receipt : Bool
  deriving DecidableEq, Repr

inductive WriteResult where
  | none | passed | failed
  deriving DecidableEq, Repr

structure PricingUnit where
  bands : List Band
  generation : DWord
  locked : Bool
  lockCount : DWord
  unlockPending : Bool
  queue : List StoreJob
  active : Option ActiveWrite
  sessions : NumberBlock
  receipts : NumberBlock
  damaged : DamageMarks
  lastWrite : WriteResult
  deriving DecidableEq, Repr

/-- The nonvolatile store (section 7.7): each item's content and whether its check fails. -/
structure StoreImage where
  tariff : TariffItem
  tariffDamaged : Bool
  session : Nat
  sessionDamaged : Bool
  receipt : Nat
  receiptDamaged : Bool
  deriving DecidableEq, Repr

/-! ## Receipt Unit -/

/-- The part's copy of a seen offer entry, with its skip mark (R133, R134). -/
structure OfferCopy where
  slip : Nat
  skip : Bool
  deriving DecidableEq, Repr

/-- An offer list as the part holds it: `copies` are the entries from the read index up to the seen write index. -/
structure OfferList where
  read : Word
  seen : Word
  copies : List OfferCopy
  deriving DecidableEq, Repr

def OfferList.reset : OfferList := ⟨0, 0, []⟩

/-- The part's copy of an unread entry of the receipt list. -/
structure UnreadEntry where
  slip : Nat
  receipt : Nat
  session : Nat
  deriving DecidableEq, Repr

/-- The Receipt Unit's own state. `noticeThreshold` is the notice threshold that the last placement took, in force until
the next (section 8.6). -/
structure ReceiptUnit where
  short : OfferList
  long : OfferList
  write : Word
  readMark : Word
  unread : List UnreadEntry
  wantSlips : Bool
  wantRoom : Bool
  noticeThreshold : Nat
  threshold : Bool
  linger : Option Nat
  slipsOut : DWord
  badOffers : DWord
  deriving DecidableEq, Repr

/-! ## Exchange Unit -/

/-- A long request in the holder (R152). -/
structure Held where
  slot : Fin 48
  ticket : Word
  kind : Word
  body : List Word
  deriving DecidableEq, Repr

structure ExchangeUnit where
  mem : Memory
  attn : Word
  mask : Word
  clock : Nat
  offset : Int
  sweeping : Option (Fin 48)
  lastSlot : Fin 48
  wakePending : Bool
  timersOn : Bool
  holder : Vector (Option Held) 8
  rewriting : Bool
  rewritePending : Bool
  generation : Word
  rewriteBegan : Option Nat
  lost : DWord
  deriving DecidableEq, Repr

/-! ## Site: straps, run state, settings -/

inductive RunState where
  | halted | run
  deriving DecidableEq, Repr

inductive RunRefusal where
  | none | strapError | noSite | storeDamaged
  deriving DecidableEq, Repr

/-- The fixed fields of SET_SITE (section 10.4). -/
structure FixedFields where
  fittedOverride : Nat
  speedOverride : Nat
  priorityFlags : DWord
  deriving DecidableEq, Repr

structure SiteUnit where
  straps : Straps
  holdIn : Bool
  run : RunState
  siteSet : Bool
  countersMissing : Bool
  lastRefusal : RunRefusal
  settings : SiteSettings
  inForce : FixedFields
  deriving DecidableEq, Repr

/-- The whole machine. -/
structure State where
  link : BayLink
  sess : SessionUnit
  meter : MeterUnit
  allot : AllotUnit
  hold : HoldController
  grid : GridWatch
  store : StoreUnit
  price : PricingUnit
  nv : StoreImage
  rcpt : ReceiptUnit
  xchg : ExchangeUnit
  site : SiteUnit
  elapsed : Nat
  inReset : Bool
  restartDue : Option RunState
  roundsAsked : Nat
  pageAsks : Nat
  spiData : Word
  pending : List Instr
  deriving DecidableEq, Repr

/-- Why the machine stops. The manual has no stop of its own. -/
inductive Fault where
  /-- Raised by no command: a host word's address cannot lie outside the exchange memory (R169). Safe. -/
  | noSuchWord
  deriving DecidableEq, Repr

/-- Why a command is refused. -/
inductive Refusal where
  /-- A row of the opcode table without a meaning in this model. Safe. No arm of exec uses it. -/
  | notModelled (mnemonic : String)
  deriving DecidableEq, Repr

/-! ## Reset -/

/-- The SET_SITE fields after power-on reset (section 10.4). -/
def SiteSettings.reset : SiteSettings :=
  { importCap := 0, feederLimit := 0, exportLimit := 0, margin := 1000, intervalTarget := 0, holdLineLimit := 0,
    reserveFloor := 300, topUpTarget := 800, dischargeLimit := 0, chargeLimit := 0, freeAuthority := 0,
    noticeThreshold := 1, noticeLinger := 0, idleGrace := 15, fittedOverride := 0, speedOverride := 0,
    priorityFlags := 0 }

def FixedFields.reset : FixedFields := ⟨0, 0, 0⟩

/-- DESIGN CHOICE (log entry 5): the contents of the store at State.reset, three whole items with an empty unlocked table
and bases 0. -/
def StoreImage.blank : StoreImage :=
  { tariff := ⟨[], 0, false, 0⟩, tariffDamaged := false, session := 0, sessionDamaged := false, receipt := 0,
    receiptDamaged := false }

/-- DESIGN CHOICE (log entry 5): the straps of State.reset, FIT 11 (24 bays), BAYSPD and HOLDPOL low. -/
def Straps.default : Straps := ⟨true, true, false, false⟩

def BayLink.reset : BayLink :=
  { recs := Vector.replicate 31 (ModuleRec.reset .isIn), nextTag := 1, urgent := [], ordinary := [], bus := .idle,
    cycleStart := none, frameErrors := 0, missedPolls := 0, replacedModules := 0 }

def SessionUnit.reset : SessionUnit :=
  { bays := Vector.replicate 24 (BayRec.reset .seeking), table := [], vouchers := [], voids := 0 }

/-- R62. -/
def MeterUnit.reset : MeterUnit :=
  { receiver := .waiting, lastSeq := none, latest := ⟨0, 0, false, 0, 0, 0, 0⟩, arrival := none, state := .blind,
    watch := none, shares := ⟨0, 0, 1000⟩, intervalStart := 0, used := 0, residue := 0, exceeded := false, gaps := 0,
    exceedances := 0 }

/-- R85. -/
def AllotUnit.reset : AllotUnit :=
  { grants := Vector.replicate 24 0, waitList := [], mark := 0, budget := 0, blindBudget := 0, blindTimer := false,
    setpoint := .watts 0, stance := .idle, ceilings := Vector.replicate 6 none }

/-- R99, with the line source inactive. -/
def HoldController.reset : HoldController :=
  { lineActive := false, request := none, state := .clear, deadline := none, good := 0, ack := false }

/-- R99. -/
def GridWatch.reset : GridWatch := ⟨.present, .stopped⟩

/-- R114. -/
def StoreUnit.reset : StoreUnit :=
  { link := .none, rating := 0, soc := none, flow := 0, fault := 0, forming := false, reserve := false,
    gridAbsent := false, holdMissed := false, condition := .offline, discharge := 0, charge := 0,
    strings := Vector.replicate 6 StringRec.reset, topUp := false }

/-- R132, for a store of three whole items with bases 0: the next numbers are 64 and the two block writes are asked. -/
def PricingUnit.reset : PricingUnit :=
  { bands := [], generation := 0, locked := false, lockCount := 0, unlockPending := false,
    queue := [.block .session 64, .block .receipt 64], active := none,
    sessions := ⟨some 64, 0, false, some 64⟩, receipts := ⟨some 64, 0, false, some 64⟩,
    damaged := ⟨false, false, false⟩, lastWrite := .none }

/-- R146. -/
def ReceiptUnit.reset : ReceiptUnit :=
  { short := .reset, long := .reset, write := 0, readMark := 0, unread := [], wantSlips := false, wantRoom := false,
    noticeThreshold := 1, threshold := false, linger := none, slipsOut := 0, badOffers := 0 }

/-- R162. -/
def ExchangeUnit.reset : ExchangeUnit :=
  { mem := [], attn := 0, mask := 0, clock := 0, offset := 0, sweeping := none, lastSlot := 47, wakePending := false,
    timersOn := true, holder := Vector.replicate 8 none, rewriting := false, rewritePending := false, generation := 0,
    rewriteBegan := none, lost := 0 }

/-- R164: HALTED, with the straps of log entry 5. -/
def SiteUnit.reset : SiteUnit :=
  { straps := Straps.default, holdIn := false, run := .halted, siteSet := false, countersMissing := false, lastRefusal := .none,
    settings := SiteSettings.reset, inForce := .reset }

/-- The machine right after power-on reset (R164). The first rewrite of the status page is asked and the two block writes
wait in the store queue; both begin at the end of the first command (log entry 5). -/
def State.reset : State :=
  { link := .reset, sess := .reset, meter := .reset, allot := .reset, hold := .reset, grid := .reset, store := .reset,
    price := .reset, nv := .blank, rcpt := .reset, xchg := .reset, site := .reset, elapsed := 0, inReset := false,
    restartDue := none, roundsAsked := 0, pageAsks := 1, spiData := 0, pending := [] }

end Sys2Proof.Machine
end

