-- ==== Sys2Proof/Machine/Ops.lean ====
section
/-!
DEFINITION. The named operations over memory, records and registers that every unit uses: the exchange memory by bytes and
words, field accessors of the state, attention, the requests for rounds and page rewrites, and the registers as the host
reads them.
-/
namespace Sys2Proof.Machine

/-! ## The exchange memory

The cells are in one canonical form: addresses strictly rising and no cell that holds 0, which is what an unlisted byte
reads as (R162: power-on reset clears the memory to zero). -/

/-- The canonical form of the memory. -/
abbrev Memory.wf (m : Memory) : Prop :=
  m.Pairwise (fun c d => c.1 < d.1) ∧ ∀ c ∈ m, c.2 ≠ 0

/-- The byte at a byte address. -/
def Memory.read : Memory → Nat → Byte
  | [], _ => 0
  | c :: m, a => if c.1 = a then c.2 else Memory.read m a

/-- The cells of a run of bytes from an address on, less those that hold 0. -/
def cellsFrom : Nat → List Byte → Memory
  | _, [] => []
  | a, b :: bs => if b = 0 then cellsFrom (a + 1) bs else (a, b) :: cellsFrom (a + 1) bs

/-- A run of bytes written from an address on: the one operation that changes the memory. -/
def Memory.store (m : Memory) (a : Nat) (bs : List Byte) : Memory :=
  m.filter (fun c => decide (c.1 < a)) ++ (cellsFrom a bs ++ m.filter (fun c => decide (a + bs.length ≤ c.1)))

/-- The two bytes of a word, the more significant first (R169). -/
def wordBytes (w : Word) : List Byte := [w.extractLsb' 8 8, w.extractLsb' 0 8]

/-- The word at a word address. -/
def Memory.word (m : Memory) (a : Nat) : Word := m.read (2 * a) ++ m.read (2 * a + 1)

/-- The words from a word address on. -/
def Memory.words (m : Memory) (a n : Nat) : List Word := (List.range n).map (fun i => m.word (a + i))

/-- A run of words written from a word address on. -/
def Memory.storeWords (m : Memory) (a : Nat) (ws : List Word) : Memory :=
  m.store (2 * a) (ws.flatMap wordBytes)

/-- The two words of a wide quantity, the more significant at the lower address (R169). -/
def dwordWords (d : DWord) : List Word := [d.extractLsb' 16 16, d.extractLsb' 0 16]

/-- The wide quantity that two words hold. -/
def dwordOf (hi lo : Word) : DWord := hi ++ lo

/-- A word that shows a number. A number above its field saturates (section 4.3). -/
def showWord (n : Nat) : Word := BitVec.ofNat 16 (min n 65535)

/-- The two words that show a number, saturating (section 4.3). -/
def showDWord (n : Nat) : List Word := dwordWords (BitVec.ofNat 32 (min n 4294967295))

/-- The two words that show a signed number in two's complement (R169). -/
def showInt (i : Int) : List Word := dwordWords (BitVec.ofInt 32 i)

/-- The word that shows a signed number in two's complement (R169). A number outside its field saturates (section 4.3). -/
def showSigned (i : Int) : Word := BitVec.ofInt 16 (max (-32768) (min i 32767))

/-- A flag, mark or yes-or-no in a word: 0 or 1 (R169). -/
def showFlag (b : Bool) : Word := if b then 1 else 0

/-- The XOR of a list of words, the check word of a body or a table (R153, R170). -/
def xorWords (ws : List Word) : Word := ws.foldl (· ^^^ ·) 0

/-- The XOR of a list of bytes, the check byte of a frame or a sample (R3, R48). -/
def xorBytes (bs : List Byte) : Byte := bs.foldl (· ^^^ ·) 0

def State.mem (s : State) : Memory := s.xchg.mem

/-- The part, or the host, writes a run of words into the exchange memory. -/
def State.writeWords (s : State) (a : Nat) (ws : List Word) : State :=
  { s with xchg.mem := s.xchg.mem.storeWords a ws }

/-- A list of host word writes, in order (R147). -/
def State.hostWords (s : State) : List HostWrite → State
  | [] => s
  | w :: ws => State.hostWords (s.writeWords w.addr.toNat [w.value]) ws

/-- A table that the host writes from a word offset on: the words that have an address, 0x0000 to 0x7FFF (R169; log
entry 9). -/
def State.hostTable (s : State) (offset : Word) (table : List Word) : State :=
  s.writeWords offset.toNat (table.take (0x8000 - offset.toNat))

/-! ## Records and bays -/

/-- The place of a target's record among the 31 records, in ascending address order (section 1.3). -/
def Target.ix : Target → Fin 31
  | .bay b => ⟨b.val, by omega⟩
  | .string i => ⟨24 + i.val, by omega⟩
  | .store => ⟨30, by omega⟩

/-- The bay bus address of a target (R1). -/
def Target.address : Target → Nat
  | .bay b => b.val + 1
  | .string i => 41 + i.val
  | .store => 50

/-- The target at a bay bus address, if the address carries one (R1). -/
def Target.ofAddress (a : Nat) : Option Target :=
  if h : 1 ≤ a ∧ a ≤ 24 then some (.bay ⟨a - 1, by omega⟩)
  else if h : 41 ≤ a ∧ a ≤ 46 then some (.string ⟨a - 41, by omega⟩)
  else if a = 50 then some .store
  else none

/-- The 31 targets in ascending address order (R19). -/
def Target.all : List Target :=
  (List.finRange 24).map .bay ++ (List.finRange 6).map .string ++ [.store]

/-- The class a target's address expects (R1). -/
def Target.cls : Target → ModuleClass
  | .bay _ => .bay
  | .string _ => .canopy
  | .store => .store

def State.recOf (s : State) (t : Target) : ModuleRec := s.link.recs[t.ix]

def State.setRec (s : State) (t : Target) (r : ModuleRec) : State :=
  { s with link.recs := s.link.recs.set t.ix r }

def State.bayOf (s : State) (b : BayIx) : BayRec := s.sess.bays[b]

def State.setBay (s : State) (b : BayIx) (r : BayRec) : State :=
  { s with sess.bays := s.sess.bays.set b r }

def State.grantOf (s : State) (b : BayIx) : Nat := s.allot.grants[b]

def State.setGrant (s : State) (b : BayIx) (w : Nat) : State :=
  { s with allot.grants := s.allot.grants.set b w }

def State.stringOf (s : State) (i : StringIx) : StringRec := s.store.strings[i]

def State.setString (s : State) (i : StringIx) (r : StringRec) : State :=
  { s with store.strings := s.store.strings.set i r }

/-! ## Site values -/

/-- The fitted bay count of FIT and the override in force (R1, R163). -/
def fittedCount (straps : Straps) (override : Nat) : Nat :=
  if override ≠ 0 then override
  else match straps.fit1, straps.fit0 with
    | false, false => 0
    | false, true => 8
    | true, false => 16
    | true, true => 24

def State.fitted (s : State) : Nat := fittedCount s.site.straps s.site.inForce.fittedOverride

/-- A bay is fitted when its number is not greater than the fitted count (R1). -/
def State.isFitted (s : State) (b : BayIx) : Bool := decide (b.val + 1 ≤ s.fitted)

/-- The bay bus rate in bit/s (R1). -/
def State.busRate (s : State) : Nat :=
  if s.site.inForce.speedOverride = 1 then 115200
  else if s.site.inForce.speedOverride = 2 then 460800
  else if s.site.straps.bayspd then 460800 else 115200

/-- The strap error flag: FIT latched as 00 (R148, R163). -/
def State.strapError (s : State) : Bool := !s.site.straps.fit1 && !s.site.straps.fit0

/-- The line source is active when HOLD_IN is at its active level (R86): high with HOLDPOL low, low with HOLDPOL high. -/
def lineActive (holdpol holdIn : Bool) : Bool := holdIn != holdpol

/-- FREE authority is in force (R37). -/
def State.freeOn (s : State) : Bool := decide (s.site.settings.freeAuthority = 1)

/-- The priority flag of a bay, bay 1 in the least significant bit (R170). -/
def State.priorityOf (s : State) (b : BayIx) : Bool := s.site.inForce.priorityFlags.getLsbD b.val

/-- The local time (R127). -/
def State.localTime (s : State) : Int := s.xchg.clock + s.xchg.offset

/-! ## Rounds and page rewrites asked inside a command

Both are served when the command in hand has done everything else (log entry 4). -/

/-- A cause of an allotment round (R64). In HALTED no round runs. -/
def State.askRound (s : State) : State :=
  if s.site.run = .run then { s with roundsAsked := s.roundsAsked + 1 } else s

/-- A request for a rewrite of the status page (R159). -/
def State.askPage (s : State) : State := { s with pageAsks := s.pageAsks + 1 }

/-! ## Reads by the host that change nothing -/

/-- The fields that IDENT reads (R148): part code, revision, the latched levels and the strap error flag. -/
structure IdentView where
  partCode : Byte
  revision : Byte
  straps : Straps
  strapError : Bool
  deriving DecidableEq, Repr

/-- What IDENT reads; while RESET is low every read returns 0 (R164). -/
def State.identView (s : State) : IdentView :=
  if s.inReset then ⟨0, 0, ⟨false, false, false, false⟩, false⟩
  else ⟨Config.partCode, Config.revision, s.site.straps, s.strapError⟩

/-- The fields that SITE_CTL reads (R149). -/
structure SiteCtlView where
  run : RunState
  siteSet : Bool
  countersMissing : Bool
  lastRefusal : RunRefusal
  deriving DecidableEq, Repr

/-- What SITE_CTL reads; while RESET is low every read returns 0 (R164): HALTED (R169), clear flags, NONE. -/
def State.siteCtlView (s : State) : SiteCtlView :=
  if s.inReset then ⟨.halted, false, false, .none⟩
  else ⟨s.site.run, s.site.siteSet, s.site.countersMissing, s.site.lastRefusal⟩

/-- WAKE reads as 0 (R148). -/
def State.readWake (_s : State) : Word := 0

/-- ATTN_MASK; while RESET is low every read returns 0 (R164). -/
def State.readMask (s : State) : Word := if s.inReset then 0 else s.xchg.mask

/-- A word of the exchange memory as the host reads it; while RESET is low every read returns 0 (R164). -/
def State.hostReadWord (s : State) (a : WordAddr) : Word := if s.inReset then 0 else s.xchg.mem.word a.toNat

end Sys2Proof.Machine
end

