-- ==== Sys2Proof/Machine/Flags.lean ====
section
/-!
DEFINITION. The attention bits, and the output pins as functions of the state (section 9.8, R93, R1, R164).
-/
namespace Sys2Proof.Machine

/-- The eight attention bits (section 9.8). -/
inductive Attention where
  | slot | receipt | slips | full | bay | grid | store | meter
  deriving DecidableEq, Repr

/-- DESIGN CHOICE (log entry 8): the bit position of an attention bit is its row in the table of section 9.8, from 0. -/
def Attention.bit : Attention → Word
  | .slot => 0x0001
  | .receipt => 0x0002
  | .slips => 0x0004
  | .full => 0x0008
  | .bay => 0x0010
  | .grid => 0x0020
  | .store => 0x0040
  | .meter => 0x0080

/-- The positions that carry an attention bit. -/
def attnBits : Word := 0x00FF

/-- An attention event sets its bit, whether or not it is enabled (R158). -/
def State.raise (s : State) (a : Attention) : State := { s with xchg.attn := s.xchg.attn ||| a.bit }

/-- IRQ is asserted while any bit is set both in ATTN and in ATTN_MASK (R158), and released in reset (R164). -/
def State.irq (s : State) : Bool := !s.inReset && decide (s.xchg.attn &&& s.xchg.mask ≠ 0)

/-- HOLD_ACK is driven high while it is asserted (R93), and low in reset (R164). -/
def State.holdAckPin (s : State) : Bool := !s.inReset && s.hold.ack

/-- BAYBUS_DE is high while the part transmits a frame (R1), and low in reset (R164). -/
def State.baybusDe (s : State) : Bool :=
  !s.inReset && match s.link.bus with
    | .sending _ => true
    | .abandoned => true
    | .idle => false
    | .awaiting _ => false
    | .window => false

end Sys2Proof.Machine
end

