-- ==== Sys2Proof/Machine/Operands.lean ====
section
/-!
DEFINITION. The operand forms: the number codes of names (R169), the words of a request slot and of the two tables (R170),
the bytes of a sample (R48) and of a bay bus frame (R173), each written and read.
-/
namespace Sys2Proof.Machine

/-! ## Codes (R169) -/

def BayState.code : BayState → Nat
  | .unfitted => 0 | .seeking => 1 | .vacant => 2 | .plugged => 3 | .awaitPower => 4 | .charging => 5 | .sated => 6
  | .ending => 7 | .faulted => 8 | .silent => 9 | .parked => 10

def EndCause.code : EndCause → Nat
  | .unplugged => 1 | .stopButton => 2 | .stoppedByRequest => 3 | .energyLimit => 4 | .segmentLimit => 5 | .bayFault => 6
  | .baySilent => 7 | .moduleReplaced => 8 | .siteRestart => 9

/-- 0 while absent. -/
def causeCode : Option EndCause → Nat
  | none => 0
  | some c => c.code

def Authority.code : Authority → Nat
  | .voucher => 1 | .account => 2 | .free => 3

def LineKind.code : LineKind → Nat
  | .energy => 1 | .idle => 2 | .voucher => 3

def HoldState.code : HoldState → Nat
  | .clear => 0 | .requested => 1 | .met => 2 | .missed => 3

def GridState.code : GridState → Nat
  | .present => 0 | .lost => 1 | .returning => 2

def Condition.code : Condition → Nat
  | .offline => 0 | .ready => 1 | .reserve => 2 | .backup => 3 | .fault => 4

def Stance.code : Stance → Nat
  | .supporting => 0 | .soaking => 1 | .topping => 2 | .idle => 3

def MeterState.code : MeterState → Nat
  | .live => 0 | .blind => 1

def RunState.code : RunState → Nat
  | .halted => 0 | .run => 1

def ConvLink.code : ConvLink → Nat
  | .none => 0 | .up => 1 | .down => 2

def WriteResult.code : WriteResult → Nat
  | .none => 0 | .passed => 1 | .failed => 2

def EnrolKind.code : EnrolKind → Nat
  | .first => 1 | .same => 2 | .replaced => 3

def ModuleClass.code : ModuleClass → Nat
  | .bay => 1 | .canopy => 2 | .store => 3

/-- The class a WHO answer's class byte names; no other code names one (R173). -/
def ModuleClass.ofCode (b : Byte) : Option ModuleClass :=
  if b = 1 then some .bay else if b = 2 then some .canopy else if b = 3 then some .store else none

/-- The message code, by its row in R28 from ENTER_CODE 1 (R173). -/
def Message.code : Message → Nat
  | .enterCode => 1 | .codeRefused => 2 | .outOfService => 3 | .waiting => 4 | .charging => 5 | .finished => 6

/-- Slot states (R169). -/
def slotFree : Word := 0
def slotFilled : Word := 1
def slotTaken : Word := 2
def slotDone : Word := 3
def slotRefused : Word := 4

/-- The request kinds (R156, codes of R169). -/
inductive Kind where
  | setSite | setClock | authorise | stopSession | parkBay | returnBay | enrolBay | postVoucher | withdrawVoucher
  | setTariff | lockTariff | unlockTariff | setCounters | gridHold | cancel
  deriving DecidableEq, Repr

def Kind.code : Kind → Word
  | .setSite => 1 | .setClock => 2 | .authorise => 3 | .stopSession => 4 | .parkBay => 5 | .returnBay => 6
  | .enrolBay => 7 | .postVoucher => 8 | .withdrawVoucher => 9 | .setTariff => 10 | .lockTariff => 11
  | .unlockTariff => 12 | .setCounters => 13 | .gridHold => 14 | .cancel => 15

def Kind.all : List Kind :=
  [.setSite, .setClock, .authorise, .stopSession, .parkBay, .returnBay, .enrolBay, .postVoucher, .withdrawVoucher,
    .setTariff, .lockTariff, .unlockTariff, .setCounters, .gridHold, .cancel]

/-- The kind that a kind word names, if any (R153, step 2). -/
def Kind.ofCode (w : Word) : Option Kind := Kind.all.find? (fun k => k.code == w)

/-- The long kinds (R156). -/
def Kind.isLong : Kind → Bool
  | .stopSession | .parkBay | .returnBay | .enrolBay | .setTariff | .lockTariff | .unlockTariff | .gridHold => true
  | .setSite | .setClock | .authorise | .postVoucher | .withdrawVoucher | .setCounters | .cancel => false

/-- The kinds allowed in HALTED (R153). -/
def Kind.inHalted : Kind → Bool
  | .setSite | .setClock | .setTariff | .lockTariff | .unlockTariff | .postVoucher | .withdrawVoucher | .setCounters => true
  | .authorise | .stopSession | .parkBay | .returnBay | .enrolBay | .gridHold | .cancel => false

/-- The refusal reasons (R169, result code). -/
inductive Reason where
  | malformed | unknownKind | notRunning | badBay | badValue | locked | sessionsOpen | notPlugged | bayBusy
  | noSessionRoom | noTariff | noSession | tableFull | duplicateCode | noSuchCode | inUse | notAllowed | cancelled
  | aborted | nothingToCancel | storeFailed
  deriving DecidableEq, Repr

def Reason.code : Reason → Nat
  | .malformed => 1 | .unknownKind => 2 | .notRunning => 3 | .badBay => 4 | .badValue => 5 | .locked => 6
  | .sessionsOpen => 7 | .notPlugged => 8 | .bayBusy => 9 | .noSessionRoom => 10 | .noTariff => 11 | .noSession => 12
  | .tableFull => 13 | .duplicateCode => 14 | .noSuchCode => 15 | .inUse => 16 | .notAllowed => 17 | .cancelled => 18
  | .aborted => 19 | .nothingToCancel => 20 | .storeFailed => 21

/-- The outcomes of a DONE answer (R169). -/
inductive Result where
  | none | met | missed | expired | replaced | enrolled | mismatch | noAnswer
  deriving DecidableEq, Repr

def Result.code : Result → Nat
  | .none => 0 | .met => 1 | .missed => 2 | .expired => 3 | .replaced => 4 | .enrolled => 5 | .mismatch => 6
  | .noAnswer => 7

/-! ## Request slots (R170) -/

/-- The first word of a slot. -/
def slotBase (slot : Fin 48) : Nat := 32 * slot.val

/-- The 24 words of a body area, with zeros after the words given. -/
def padBody (ws : List Word) : List Word := (ws ++ List.replicate 24 0).take 24

/-- The words 0 to 28 of a slot that the host has filled: state FILLED, kind, complement, ticket, check word, body. -/
def requestWords (kind : Kind) (ticket : Word) (body : List Word) : List Word :=
  [slotFilled, kind.code, ~~~kind.code, ticket, xorWords (padBody body)] ++ padBody body

/-- The words of a byte field of `2 * n` bytes, its first byte in the more significant half of its first word (R169). -/
def fieldWords {w : Nat} (n : Nat) (v : BitVec w) : List Word :=
  (List.range n).map (fun i => v.extractLsb' (16 * (n - 1 - i)) 16)

/-- A word of a copied body, by body word number. -/
def bodyWord (body : List Word) (i : Nat) : Word := body.getD i 0

def bodyDWord (body : List Word) (i : Nat) : DWord := dwordOf (bodyWord body i) (bodyWord body (i + 1))

/-- The 8 characters of a voucher code in four body words. -/
def bodyCode (body : List Word) (i : Nat) : BitVec 64 :=
  ((bodyWord body i ++ bodyWord body (i + 1)) ++ (bodyWord body (i + 2) ++ bodyWord body (i + 3)) : BitVec 64)

/-- The 16 bytes of an account reference in eight body words. -/
def bodyAccount (body : List Word) (i : Nat) : BitVec 128 :=
  (bodyCode body i ++ bodyCode body (i + 4) : BitVec 128)

/-- A character is a digit 0 to 9, byte values 0x30 to 0x39 (R169). -/
def isDigit (b : Byte) : Bool := decide (0x30 ≤ b.toNat) && decide (b.toNat ≤ 0x39)

/-- The eight characters of a code, first character first. -/
def codeBytes (c : BitVec 64) : List Byte := (List.range 8).map (fun i => c.extractLsb' (8 * (7 - i)) 8)

/-- Every character of the code is a digit (R43). -/
def codeIsDigits (c : BitVec 64) : Bool := (codeBytes c).all isDigit

/-! ## The tables of SET_SITE and SET_TARIFF (R170) -/

def natWord (n : Nat) : Word := BitVec.ofNat 16 n
def natDWord (n : Nat) : List Word := dwordWords (BitVec.ofNat 32 n)

/-- A table's words with its last word, the XOR of all the others. -/
def sealTable (ws : List Word) : List Word := ws ++ [xorWords ws]

def settingsWords (t : SiteSettings) : List Word :=
  natDWord t.importCap ++ natDWord t.feederLimit ++ natDWord t.exportLimit ++ natDWord t.margin
    ++ natDWord t.intervalTarget ++ natDWord t.holdLineLimit
    ++ [natWord t.reserveFloor, natWord t.topUpTarget]
    ++ natDWord t.dischargeLimit ++ natDWord t.chargeLimit
    ++ [natWord t.freeAuthority, natWord t.noticeThreshold, natWord t.noticeLinger, natWord t.idleGrace,
        natWord t.fittedOverride, natWord t.speedOverride]
    ++ dwordWords t.priorityFlags

def settingsOf (ws : List Word) : SiteSettings :=
  let d := fun i => (bodyDWord ws i).toNat
  let w := fun i => (bodyWord ws i).toNat
  { importCap := d 0, feederLimit := d 2, exportLimit := d 4, margin := d 6, intervalTarget := d 8,
    holdLineLimit := d 10, reserveFloor := w 12, topUpTarget := w 13, dischargeLimit := d 14, chargeLimit := d 16,
    freeAuthority := w 18, noticeThreshold := w 19, noticeLinger := w 20, idleGrace := w 21, fittedOverride := w 22,
    speedOverride := w 23, priorityFlags := bodyDWord ws 24 }

/-- The band count word: the count in bits 0 to 7, the top-up flag of band 1 in bit 8 and so on (R170). -/
def bandCountWord (bands : List Band) : Word :=
  natWord (bands.length % 256 + 256 * ((bands.take 8).foldr (fun b acc => (if b.topUp then 1 else 0) + 2 * acc) 0))

def bandWords (b : Band) : List Word :=
  [natWord b.startMinute, natWord b.gridPrice, natWord b.sunPrice, natWord b.batteryPrice, natWord b.idlePrice]

def bandsWords (bands : List Band) : List Word := bandCountWord bands :: bands.flatMap bandWords

/-- The band count that a table's first word gives. -/
def bandCount (first : Word) : Nat := (first.extractLsb' 0 8).toNat

def bandOf (ws : List Word) (i : Nat) : Band :=
  let w := fun j => (bodyWord ws (1 + 5 * i + j)).toNat
  { startMinute := w 0, gridPrice := w 1, sunPrice := w 2, batteryPrice := w 3, idlePrice := w 4,
    topUp := decide (i < 8) && (bodyWord ws 0).getLsbD (8 + i) }

/-- The bands of a table. DESIGN CHOICE (log entry 52): the top-up flags of bands beyond the count are not taken. -/
def bandsOf (ws : List Word) : List Band := (List.range (bandCount (bodyWord ws 0))).map (bandOf ws)

/-- A table lies wholly within one host area (R169, R170). -/
def inHostArea (offset length : Nat) : Bool :=
  (decide (0x1200 ≤ offset) && decide (offset + length ≤ 0x1200 + 3584))
    || (decide (0x6000 ≤ offset) && decide (offset + length ≤ 0x8000))

/-! ## Samples (R48) -/

/-- A sample after its lead byte: 23 data bytes in seven fields, and the check byte. -/
structure SampleFrame where
  seq : Word
  gridPower : DWord
  present : Byte
  shop : DWord
  feeder : DWord
  canopy : DWord
  flow : DWord
  check : Byte
  deriving DecidableEq, Repr

def bytesOf {w : Nat} (n : Nat) (v : BitVec w) : List Byte :=
  (List.range n).map (fun i => v.extractLsb' (8 * (n - 1 - i)) 8)

/-- The 23 data bytes of a sample, each field most significant byte first. -/
def sampleData (m : SampleFrame) : List Byte :=
  bytesOf 2 m.seq ++ bytesOf 4 m.gridPower ++ [m.present] ++ bytesOf 4 m.shop ++ bytesOf 4 m.feeder
    ++ bytesOf 4 m.canopy ++ bytesOf 4 m.flow

/-- The lead byte of a sample. -/
def sampleLead : Byte := 0x5A

/-- The byte at a place of a run of bytes, 0 beyond its end. -/
def payloadByte (p : List Byte) (i : Nat) : Byte := p.getD i 0

/-- A number in a run of bytes, most significant byte first. -/
def payloadNat (p : List Byte) (i n : Nat) : Nat :=
  ((p.drop i).take n).foldl (fun acc b => 256 * acc + b.toNat) 0

/-- The sample that the 24 bytes after a lead byte spell. -/
def sampleOfBytes (p : List Byte) : SampleFrame :=
  { seq := BitVec.ofNat 16 (payloadNat p 0 2), gridPower := BitVec.ofNat 32 (payloadNat p 2 4), present := payloadByte p 6,
    shop := BitVec.ofNat 32 (payloadNat p 7 4), feeder := BitVec.ofNat 32 (payloadNat p 11 4),
    canopy := BitVec.ofNat 32 (payloadNat p 15 4), flow := BitVec.ofNat 32 (payloadNat p 19 4), check := payloadByte p 23 }

/-- The 25 bytes of a sample on the line after an idle: the lead byte, the data bytes and the check byte. -/
def sampleLine (m : SampleFrame) : List MeterByte :=
  ⟨sampleLead, true⟩ :: (sampleData m ++ [m.check]).map (fun b => ⟨b, false⟩)

/-- What one byte makes of the receiver (R49): its next state, and the 24 bytes of the sample that the byte completes. -/
def Receiver.take (r : Receiver) (b : MeterByte) : Receiver × Option (List Byte) :=
  match r with
  | .waiting => (if b.value = sampleLead ∧ b.afterIdle then .inside [] else .waiting, none)
  | .inside got => if 23 ≤ got.length then (.waiting, some (got ++ [b.value])) else (.inside (got ++ [b.value]), none)

/-- The sample that a run of bytes completes with its last byte, when it completes none before (R49). -/
def Receiver.spells : Receiver → List MeterByte → Option SampleFrame
  | _, [] => none
  | r, b :: bs =>
    match r.take b with
    | (r', none) => Receiver.spells r' bs
    | (_, some p) => if bs = [] then some (sampleOfBytes p) else none

/-- The fields of a sample whose flag is 0 or 1. -/
def sampleFields (m : SampleFrame) : Sample :=
  { seq := m.seq, gridPower := m.gridPower.toInt, gridPresent := decide (m.present = 1), shop := m.shop.toNat,
    feeder := m.feeder.toNat, canopy := m.canopy.toNat, flow := m.flow.toInt }

/-! ## Bay bus frames (R173) -/

/-- The kind byte. DEDUCED (log entry 12): the two-digit codes of R173 are hexadecimal, like its lead byte. -/
def FrameBody.kindByte : FrameBody → Byte
  | .who => 0x01
  | .name _ => 0x02
  | .poll => 0x03
  | .grant _ => 0x10
  | .lock => 0x11
  | .release => 0x12
  | .show _ => 0x13
  | .park => 0x14
  | .cap _ => 0x20
  | .setpoint _ => 0x21

/-- The payload of a frame the part sends. -/
def FrameBody.payload : FrameBody → List Byte
  | .who => []
  | .name tag => [tag]
  | .poll => []
  | .grant u => [BitVec.ofNat 8 u]
  | .lock => []
  | .release => []
  | .show m => [BitVec.ofNat 8 m.code]
  | .park => []
  | .cap u => [BitVec.ofNat 8 u]
  | .setpoint (.watts w) => 0 :: bytesOf 4 (BitVec.ofInt 32 w)
  | .setpoint .formGrid => [1, 0, 0, 0, 0]

/-- The address byte of a frame; 0 is the broadcast (R1). -/
def Frame.addressByte (f : Frame) : Byte :=
  match f.target with
  | none => 0
  | some t => BitVec.ofNat 8 t.address

/-- The bytes that leave on the line for an exchange (R173). -/
def Exchange.lineBytes (x : Exchange) : List Byte :=
  let body := [x.frame.addressByte, x.tag, x.frame.body.kindByte, ~~~x.frame.body.kindByte,
    BitVec.ofNat 8 x.frame.body.payload.length] ++ x.frame.body.payload
  0xC3 :: (body ++ [xorBytes body])

/-- The payload length of an answer, by kind and, for POLL, by the class in the target's record (R173). -/
def answerLength (body : FrameBody) (cls : Option ModuleClass) : Option Nat :=
  match body with
  | .who => some 11
  | .poll => match cls with
    | some .bay => some 20
    | some .canopy => some 6
    | some .store => some 9
    | none => none
  | .name _ | .grant _ | .lock | .release | .show _ | .park | .cap _ | .setpoint _ => some 0

/-- A signed 4-byte number of the payload. -/
def payloadInt (p : List Byte) (i : Nat) : Int := (BitVec.ofNat 32 (payloadNat p i 4)).toInt

/-- A two-valued byte: 0 and 1 as R169 codes them, any other a free value (log entry 14). -/
def flagByte (b : Byte) : Bool :=
  if b = 0 then false else if b = 1 then true else Config.unlistedFlag b

/-- A vehicle is present for connector PLUGGED (1) and LATCHED (2), absent for NONE (0) (R27, R173); any other code is a
free value (log entry 14). -/
def vehiclePresent (b : Byte) : Bool :=
  if b = 0 then false else if b = 1 ∨ b = 2 then true else Config.unlistedConnector b

/-- A POLL answer carries the UNNAMED status, code 0 (R173), in its first byte. -/
def statusUnnamed (p : List Byte) : Bool := !flagByte (payloadByte p 0)

/-- The report of a bay module's POLL answer (section 1.5). The vehicle state has no use in the part. -/
structure BayReport where
  present : Bool
  power : Nat
  energy : Nat
  fault : Nat
  keypad : Option (BitVec 64)
  stop : Bool
  deriving DecidableEq, Repr

def bayReport (p : List Byte) : BayReport :=
  { present := vehiclePresent (payloadByte p 1), power := payloadNat p 3 2, energy := payloadNat p 5 4,
    fault := (payloadByte p 9).toNat,
    keypad := if flagByte (payloadByte p 10) then some (BitVec.ofNat 64 (payloadNat p 11 8)) else none,
    stop := flagByte (payloadByte p 19) }

/-- The report of a canopy converter (section 1.5). -/
structure StringReport where
  output : Nat
  fault : Nat
  deriving DecidableEq, Repr

def stringReport (p : List Byte) : StringReport := ⟨payloadNat p 1 4, (payloadByte p 5).toNat⟩

/-- The report of the store converter (section 1.5). -/
structure StoreReport where
  soc : Nat
  flow : Int
  fault : Nat
  forming : Bool
  deriving DecidableEq, Repr

def storeReport (p : List Byte) : StoreReport :=
  ⟨payloadNat p 1 2, payloadInt p 3, (payloadByte p 7).toNat, flagByte (payloadByte p 8)⟩

/-- The report of a WHO answer (R7): serial, class, rating. The connector kind has no use in the part. -/
structure WhoReport where
  serial : BitVec 64
  cls : Option ModuleClass
  rating : Nat
  deriving DecidableEq, Repr

def whoReport (p : List Byte) : WhoReport :=
  ⟨BitVec.ofNat 64 (payloadNat p 0 8), ModuleClass.ofCode (payloadByte p 8), (payloadByte p 9).toNat⟩

end Sys2Proof.Machine
end

