-- ==== Sys2Proof/Machine/Answers.lean ====
section
/-!
DEFINITION. The holder of long requests and the writing of answers into slots (sections 9.5 and 9.6).
-/
namespace Sys2Proof.Machine

/-- An answer: DONE with an outcome and the words of the result body, or REFUSED with a reason (R155, R156). -/
inductive Reply where
  | done (outcome : Result) (body : List Word)
  | refused (reason : Reason)
  deriving DecidableEq, Repr

/-- The words 5 to 28 of the answered slot: result code, outcome, result body and zeros (R170). -/
def Reply.words : Reply → List Word
  | .done o body => padBody (0 :: natWord o.code :: body)
  | .refused r => padBody [natWord r.code]

/-- The state word of the answered slot (R155). -/
def Reply.state : Reply → Word
  | .done _ _ => slotDone
  | .refused _ => slotRefused

/-- The writing of an answer (R155): into a slot that is still TAKEN with the request's ticket, with the state word last
and SLOT attention; otherwise the answer is lost and counted. -/
def State.answerSlot (s : State) (slot : Fin 48) (ticket : Word) (r : Reply) : State :=
  if s.xchg.mem.word (slotBase slot) = slotTaken ∧ s.xchg.mem.word (slotBase slot + 3) = ticket then
    ((s.writeWords (slotBase slot + 5) r.words).writeWords (slotBase slot) [r.state]).raise .slot
  else { s with xchg.lost := s.xchg.lost + 1 }

def State.setPlace (s : State) (p : Fin 8) (h : Option Held) : State :=
  { s with xchg.holder := s.xchg.holder.set p h }

/-- The answer of a held request: its slot is written or the answer lost, and its place is given back (R155). -/
def State.answerPlace (s : State) (p : Fin 8) (r : Reply) : State :=
  match s.xchg.holder[p] with
  | none => s
  | some h => (s.answerSlot h.slot h.ticket r).setPlace p none

/-- A held request is of a kind and names a number in body word 0 (R170: a bay or an address). -/
def Held.names (h : Held) (k : Kind) (n : Nat) : Bool :=
  decide (h.kind = k.code) && decide ((bodyWord h.body 0).toNat = n)

/-- The places, in order, whose held request meets a condition. -/
def State.placesWhere (s : State) (p : Held → Bool) : List (Fin 8) :=
  (List.finRange 8).filter (fun i => match s.xchg.holder[i] with
    | none => false
    | some h => p h)

/-- One answer to each of the places given. -/
def State.answerPlaces (r : Reply) : List (Fin 8) → State → State
  | [], s => s
  | p :: ps, s => State.answerPlaces r ps (s.answerPlace p r)

/-- One answer to every held request of a kind that names a number. -/
def State.answerAll (s : State) (k : Kind) (n : Nat) (r : Reply) : State :=
  State.answerPlaces r (s.placesWhere (fun h => h.names k n)) s

/-- DESIGN CHOICE (log entry 10): a request takes the lowest empty place. -/
def State.freePlace (s : State) : Option (Fin 8) :=
  (List.finRange 8).find? (fun i => (s.xchg.holder[i]).isNone)

/-- Places in use (R161). -/
def State.placesUsed (s : State) : Nat := ((List.finRange 8).filter (fun i => (s.xchg.holder[i]).isSome)).length

end Sys2Proof.Machine
end

