-- ==== Sys2Proof/Machine/Lanes.lean ====
section
/-!
DEFINITION. The two send lanes (section 1.6): lane kinds, joining, removal, head placing, and the queueing of each frame
kind by the rules of R16 and R17. In HALTED the lanes take no frames (R15).
-/
namespace Sys2Proof.Machine

/-- The lane kinds (R15). -/
inductive LaneKind where
  | link | grant | latch | show | park | cap | setpoint
  deriving DecidableEq, Repr

def FrameBody.laneKind : FrameBody → LaneKind
  | .who | .name _ | .poll => .link
  | .grant _ => .grant
  | .lock | .release => .latch
  | .show _ => .show
  | .park => .park
  | .cap _ => .cap
  | .setpoint _ => .setpoint

/-- The entry holds a frame of a lane kind for a target. -/
def LaneEntry.holds (e : LaneEntry) (k : LaneKind) (t : Option Target) : Bool :=
  decide (e.frame.body.laneKind = k) && decide (e.frame.target = t)

/-- A lane without its frames of a lane kind for a target. -/
def dropFrames (k : LaneKind) (t : Option Target) (lane : List LaneEntry) : List LaneEntry :=
  lane.filter (fun e => !e.holds k t)

/-- R17, step 1: a frame of the same lane kind for the same target is replaced in its position, and its age and place are
kept (R18); otherwise the new frame goes to the end. -/
def joinAt (e : LaneEntry) (lane : List LaneEntry) : List LaneEntry :=
  if lane.any (fun x => x.holds e.frame.body.laneKind e.frame.target) then
    lane.map (fun x => if x.holds e.frame.body.laneKind e.frame.target then { e with head := x.head } else x)
  else lane ++ [e]

/-- A frame of a lane kind for a target waits in either lane. -/
def State.queued (s : State) (k : LaneKind) (t : Target) : Bool :=
  s.link.urgent.any (fun e => e.holds k (some t)) || s.link.ordinary.any (fun e => e.holds k (some t))

/-- The lane contents after a frame has joined a lane (R17). A GRANT for a bay with a PARK queued does not join
(step 5). -/
def State.join (s : State) (lane : Lane) (f : Frame) (cycle : Bool) : State :=
  if s.site.run = .halted then s else
  let e : LaneEntry := ⟨f, false, cycle⟩
  match lane with
  | .ordinary => { s with link.ordinary := joinAt e s.link.ordinary }
  | .urgent =>
    match f.body.laneKind with
    | .park => { s with link.urgent := joinAt e (dropFrames .grant f.target s.link.urgent),
                        link.ordinary := dropFrames .grant f.target s.link.ordinary }
    | .grant | .cap | .setpoint | .link | .latch | .show =>
      { s with link.urgent := joinAt e s.link.urgent,
               link.ordinary := dropFrames f.body.laneKind f.target s.link.ordinary }

/-- A GRANT for a bay is queued (R16, R17), in 100 W units: urgent when it is 0 or below the last issued grant. While a
PARK for the bay is queued it is not, and its value does not become the last issued value. -/
def State.queueGrant (s : State) (b : BayIx) (units : Nat) : State :=
  if s.site.run = .halted ∨ s.queued .park (.bay b) then s else
  let r := s.recOf (.bay b)
  let lane := if units = 0 ∨ units < r.issuedGrant then Lane.urgent else .ordinary
  (s.setRec (.bay b) { r with issuedGrant := units }).join lane ⟨some (.bay b), .grant units⟩ false

/-- A CAP for a string is queued (R16): urgent when it lowers the ceiling. -/
def State.queueCap (s : State) (i : StringIx) (units : Nat) : State :=
  if s.site.run = .halted then s else
  let r := s.recOf (.string i)
  let lane := if units < r.issuedCap then Lane.urgent else .ordinary
  (s.setRec (.string i) { r with issuedCap := units }).join lane ⟨some (.string i), .cap units⟩ false

/-- A numeric value for the lane test of R16: a numeric setpoint that follows FORM_GRID is compared with 0 (R78). -/
def Setpoint.level : Setpoint → Int
  | .watts w => w
  | .formGrid => 0

/-- A SETPOINT goes to the urgent lane when it is the form-grid setpoint or moves toward discharge (R16). -/
def setpointLane (new issued : Setpoint) : Lane :=
  match new with
  | .formGrid => .urgent
  | .watts w => if issued.level < w then .urgent else .ordinary

/-- A SETPOINT for the store converter is queued (R16). -/
def State.queueSetpoint (s : State) (v : Setpoint) : State :=
  if s.site.run = .halted then s else
  let r := s.recOf .store
  (s.setRec .store { r with issuedSetpoint := v }).join (setpointLane v r.issuedSetpoint) ⟨some .store, .setpoint v⟩ false

/-- LOCK or RELEASE for a bay, in the ordinary lane. -/
def State.queueLatch (s : State) (b : BayIx) (l : Latch) : State :=
  s.join .ordinary ⟨some (.bay b), match l with | .lock => .lock | .release => .release⟩ false

/-- SHOW for a bay, only when its record is NAMED (R28). -/
def State.queueShow (s : State) (b : BayIx) (m : Message) : State :=
  if (s.recOf (.bay b)).link = .named then s.join .ordinary ⟨some (.bay b), .show m⟩ false else s

/-- PARK for a bay, in the urgent lane (R21). -/
def State.queuePark (s : State) (b : BayIx) : State := s.join .urgent ⟨some (.bay b), .park⟩ false

/-- WHO for a target, in the ordinary lane. -/
def State.queueWho (s : State) (t : Target) (cycle : Bool) : State := s.join .ordinary ⟨some t, .who⟩ cycle

/-- NAME for a target with the tag of the next-tag count, which advances from 255 to 1, skipping 0 (R8). -/
def State.queueName (s : State) (t : Target) : State :=
  let tag := s.link.nextTag
  let s1 := s.join .ordinary ⟨some t, .name tag⟩ false
  { s1 with link.nextTag := if tag = 255 then 1 else tag + 1 }

/-- POLL for a target in cycle order. -/
def State.queuePoll (s : State) (t : Target) : State := s.join .ordinary ⟨some t, .poll⟩ true

/-- The broadcast NAME with tag 0 (R5). The first cycle waits until it has left (R19). -/
def State.queueBroadcast (s : State) : State := s.join .ordinary ⟨none, .name 0⟩ true

/-- A head-placed POLL for the bay waits (R20). -/
def State.headWaits (s : State) (b : BayIx) : Bool :=
  s.link.ordinary.any (fun e => e.head && e.holds .link (some (.bay b)))

/-- A POLL for a bay placed at the head of the ordinary lane, after the head-placed polls that wait, in place of any LINK
frame queued for the bay (R18, R20). It counts toward the current cycle. -/
def State.placeHead (s : State) (b : BayIx) : State :=
  if s.site.run = .halted ∨ s.headWaits b then s else
  let rest := dropFrames .link (some (.bay b)) s.link.ordinary
  let e : LaneEntry := ⟨⟨some (.bay b), .poll⟩, true, true⟩
  { s with link.ordinary := rest.filter (·.head) ++ e :: rest.filter (fun x => !x.head) }

/-- While the bay is ENDING and its record NAMED, its POLL is head-placed (R20). -/
def State.headPoll (s : State) (b : BayIx) : State :=
  if (s.bayOf b).state = .ending ∧ (s.recOf (.bay b)).link = .named then s.placeHead b else s

/-- The frame is a WHO or NAME. -/
def FrameBody.enrols : FrameBody → Bool
  | .who | .name _ => true
  | .poll | .grant _ | .lock | .release | .show _ | .park | .cap _ | .setpoint _ => false

/-- When a record becomes UNNAMED, every frame for it leaves both lanes except a WHO or NAME (R6). -/
def State.purge (s : State) (t : Target) : State :=
  let keep := fun (e : LaneEntry) => !decide (e.frame.target = some t) || e.frame.body.enrols
  { s with link.urgent := s.link.urgent.filter keep, link.ordinary := s.link.ordinary.filter keep }

/-- The WHO, NAME or POLL that waits for a target leaves the ordinary lane. -/
def State.dropLink (s : State) (t : Target) : State :=
  { s with link.ordinary := dropFrames .link (some t) s.link.ordinary }

/-- A PARK whose request is withdrawn leaves the urgent lane and the resend set; one on the line or awaiting its retry
runs on, and a miss puts nothing in the resend set (R21). -/
def State.withdrawPark (s : State) (b : BayIx) : State :=
  let r := s.recOf (.bay b)
  let s1 := s.setRec (.bay b) { r with resend := { r.resend with park := false } }
  let mark := fun (x : Exchange) =>
    if x.frame.target = some (.bay b) ∧ x.frame.body = .park then { x with withdrawn := true } else x
  { s1 with link.urgent := dropFrames .park (some (.bay b)) s1.link.urgent,
            link.bus := match s1.link.bus with
              | .sending x => .sending (mark x)
              | .awaiting x => .awaiting (mark x)
              | .idle => .idle
              | .abandoned => .abandoned
              | .window => .window }

/-- A NAME on the line, or awaiting its retry, when a roll call of its address is taken completes no enrolment (R11). -/
def State.staleName (s : State) (t : Target) : State :=
  let mark := fun (x : Exchange) =>
    if x.frame.target = some t ∧ x.frame.body.enrols ∧ x.frame.body ≠ .who then { x with stale := true } else x
  { s with link.bus := match s.link.bus with
      | .sending x => .sending (mark x)
      | .awaiting x => .awaiting (mark x)
      | .idle => .idle
      | .abandoned => .abandoned
      | .window => .window }

end Sys2Proof.Machine
end

