-- ==== Sys2Proof/Machine/Battery.lean ====
section
/-!
DEFINITION. The Store Unit (chapter 6): allowances, the battery condition and what a change of it leads to, the reserve
mark, the converter link, the string records, and the trimming of the setpoint.
-/
namespace Sys2Proof.Machine

/-! ## Allowances (R105, R106) -/

/-- The discharge allowance by condition, hold view, reserve mark, limit and full rating in W (R105). -/
def dischargeAllowance (c : Condition) (missed reserve : Bool) (limit full : Nat) : Nat :=
  match c with
  | .ready => if missed then full else min limit full
  | .backup => if missed && !reserve then full else 0
  | .reserve => 0
  | .fault => 0
  | .offline => 0

/-- The charge allowance (R106). -/
def chargeAllowance (c : Condition) (limit full : Nat) : Nat :=
  match c with
  | .ready => min limit full
  | .reserve => min limit full
  | .backup => 0
  | .fault => 0
  | .offline => 0

/-- The allowances formed anew (R105). -/
def State.formAllowances (s : State) : State :=
  let u := s.store
  let full := u.rating * 100
  { s with store.discharge := dischargeAllowance u.condition u.holdMissed u.reserve s.site.settings.dischargeLimit full,
           store.charge := chargeAllowance u.condition s.site.settings.chargeLimit full }

/-! ## The setpoint (R78, R106) -/

/-- A SETPOINT with the current setpoint is queued when it differs from the last issued one and the store converter's
record is NAMED (R78). -/
def State.issueSetpoint (s : State) : State :=
  let r := s.recOf .store
  if s.allot.setpoint ≠ r.issuedSetpoint ∧ r.link = .named then s.queueSetpoint s.allot.setpoint else s

/-- A numeric setpoint brought within the allowances (R106). -/
def trimmed (w : Int) (discharge charge : Nat) : Int :=
  if (discharge : Int) < w then discharge else if w < -(charge : Int) then -(charge : Int) else w

/-- The setpoint is trimmed to the allowances at once (R106). FORM_GRID is not trimmed. A setpoint trimmed to 0 W takes
stance IDLE. -/
def State.trimSetpoint (s : State) : State :=
  match s.allot.setpoint with
  | .formGrid => s
  | .watts w =>
    let w' := trimmed w s.store.discharge s.store.charge
    if w' = w then s
    else
      let s1 := { s with allot.setpoint := .watts w', allot.stance := if w' = 0 then .idle else s.allot.stance }
      s1.issueSetpoint

/-- A forming of the allowances that trims the setpoint (R105, R106). -/
def State.formAndTrim (s : State) : State := s.formAllowances.trimSetpoint

/-! ## The battery condition (R101, R102) -/

/-- The first line of the table of R101 that applies. -/
def conditionOf (link : ConvLink) (gridAbsent : Bool) (fault : Nat) (reserve : Bool) : Condition :=
  if link = .none then .offline
  else if gridAbsent then .backup
  else if link = .down ∨ fault ≠ 0 then .fault
  else if reserve then .reserve
  else .ready

/-- The entry to BACKUP: FORM_GRID is recorded with stance IDLE, and the form-grid SETPOINT is queued when the record is
NAMED (R78, R102, R107). -/
def State.enterBackup (s : State) : State :=
  let s1 := { s with allot.setpoint := .formGrid, allot.stance := .idle }
  if (s1.recOf .store).link = .named then s1.queueSetpoint .formGrid else s1

/-- What the Allotment Unit does on a change of condition (R102). -/
def State.conditionChanged (s : State) (old new : Condition) : State :=
  if new = .backup then s.enterBackup
  else if old = .backup then { s with allot.setpoint := .watts 0, allot.stance := .idle }
  else s.trimSetpoint

/-- The derivation of the condition, and R102's steps when it gives a new one: the condition is recorded, the allowances
are formed, STORE attention and a page rewrite follow, and the Allotment Unit is told. -/
def State.deriveCondition (s : State) : State :=
  let u := s.store
  let old := u.condition
  let new := conditionOf u.link u.gridAbsent u.fault u.reserve
  if new = old then s
  else
    let s1 := ({ s with store.condition := new } : State).formAllowances
    ((s1.raise .store).askPage).conditionChanged old new

/-- The hold view set or cleared (R105): the allowances are formed anew. -/
def State.setHoldView (s : State) (missed : Bool) : State :=
  if s.store.holdMissed = missed then s else ({ s with store.holdMissed := missed } : State).formAndTrim

/-- The grid view set (R107, R109). -/
def State.setGridView (s : State) (absent : Bool) : State :=
  ({ s with store.gridAbsent := absent } : State).deriveCondition

/-! ## State of charge and the reserve mark (R103) -/

def reserveAfter (soc : Option Nat) (floor : Nat) (mark : Bool) : Bool :=
  match soc with
  | none => mark
  | some c => if mark then decide (c < floor + 20) else decide (c ≤ floor)

def State.testReserve (s : State) : State :=
  { s with store.reserve := reserveAfter s.store.soc s.site.settings.reserveFloor s.store.reserve }

/-! ## The converter link (R100) -/

/-- A completed enrolment of the store converter. Nothing that a replaced converter reported is carried over. DESIGN CHOICE
(log entry 54): its flow, for which R100 names no value, becomes the 0 W of power-on reset. -/
def State.converterEnrolled (s : State) (k : EnrolKind) (rating : Nat) : State :=
  let u := s.store
  let u1 := { u with link := .up, rating := rating }
  let u2 := match k with
    | .same => u1
    | .first => { u1 with fault := 0, forming := false, soc := none }
    | .replaced => { u1 with flow := 0, fault := 0, forming := false, soc := none, reserve := false }
  (({ s with store := u2 } : State).deriveCondition).formAndTrim

/-- The record becomes UNNAMED, or the converter goes SILENT: an UP link becomes DOWN. -/
def State.converterDown (s : State) : State :=
  if s.store.link = .up then ({ s with store.link := .down } : State).deriveCondition else s.deriveCondition

/-- A class mismatch at address 50. -/
def State.converterMismatch (s : State) : State :=
  ({ s with store.link := .none, store.rating := 0 } : State).deriveCondition

/-- The grid-forming watch (R108): at most one SETPOINT per report, and none while one is queued. -/
def State.formingWatch (s : State) : State :=
  if s.queued .setpoint .store then s
  else if s.store.condition = .backup ∧ s.allot.setpoint = .formGrid ∧ s.store.forming = false then
    s.queueSetpoint .formGrid
  else if s.store.condition ≠ .backup ∧ s.allot.setpoint ≠ .formGrid ∧ s.store.forming = true then
    s.queueSetpoint s.allot.setpoint
  else s

/-- A report of the store converter, in the order of R102. -/
def State.converterReport (s : State) (r : StoreReport) : State :=
  let s1 := ({ s with store.soc := some (min r.soc 1000) } : State).testReserve
  let s2 := { s1 with store.flow := r.flow, store.fault := r.fault, store.forming := r.forming }
  s2.deriveCondition.formingWatch

/-! ## Canopy strings (R111, R112) -/

/-- The ceiling after an enrolment gave its string a rating: at or above the rating it becomes OPEN (R112). -/
def ceilingAtEnrolment (ceiling : Option Nat) (rating : Nat) : Option Nat :=
  match ceiling with
  | none => none
  | some c => if rating ≤ c then none else some c

def State.stringEnrolled (s : State) (i : StringIx) (k : EnrolKind) (rating : Nat) : State :=
  let u := s.stringOf i
  let s1 := s.setString i { u with link := .up, rating := rating, output := none,
                                   fault := match k with | .same => u.fault | .first => 0 | .replaced => 0 }
  { s1 with allot.ceilings := s1.allot.ceilings.set i (ceilingAtEnrolment s1.allot.ceilings[i] rating) }

def State.stringDown (s : State) (i : StringIx) : State :=
  let u := s.stringOf i
  if u.link = .up then s.setString i { u with link := .down } else s

def State.stringMismatch (s : State) (i : StringIx) : State :=
  s.setString i { s.stringOf i with link := .none, rating := 0 }

def State.stringReport (s : State) (i : StringIx) (r : StringReport) : State :=
  s.setString i { s.stringOf i with output := some r.output, fault := r.fault }

/-- A string is producing when its link is UP, its fault code 0 and its output present (R111). -/
def StringRec.producing (u : StringRec) : Bool := decide (u.link = .up) && decide (u.fault = 0) && u.output.isSome

/-- The value a CAP for the string carries: an OPEN ceiling is sent as the string's rating (R80). -/
def State.capUnits (s : State) (i : StringIx) : Nat :=
  match s.allot.ceilings[i] with
  | none => (s.stringOf i).rating
  | some c => c

end Sys2Proof.Machine
end

