-- ==== Sys2Proof/Machine/Pricing.lean ====
section
/-!
DEFINITION. The Pricing Unit (chapter 7): the band in force, segments, the energy split, the idle clock, pricing at
close, number blocks, and the queue of the nonvolatile store.
-/
namespace Sys2Proof.Machine

/-! ## The band in force (R118) -/

/-- floor(((site clock + local offset) mod 86400) / 60). -/
def localMinute (clock : Nat) (offset : Int) : Nat := (((clock : Int) + offset) % 86400).toNat / 60

/-- The last band, with its number, that starts at or below the minute, searching from number `n` on. -/
def lastStarted (minute : Nat) : Nat → List Band → Option (Nat × Band)
  | _, [] => none
  | n, b :: bs => match lastStarted minute (n + 1) bs with
    | some r => some r
    | none => if b.startMinute ≤ minute then some (n, b) else none

/-- The last band of a table with its number. -/
def lastBand : Nat → List Band → Option (Nat × Band)
  | _, [] => none
  | n, [b] => some (n, b)
  | n, _ :: b :: bs => lastBand (n + 1) (b :: bs)

/-- The band in force with its number 1 to 8: the greatest start at or below the minute, or the last band of all. -/
def bandInForce (bands : List Band) (minute : Nat) : Option (Nat × Band) :=
  match lastStarted minute 1 bands with
  | some r => some r
  | none => lastBand 1 bands

def State.band (s : State) : Option (Nat × Band) :=
  bandInForce s.price.bands (localMinute s.xchg.clock s.xchg.offset)

/-- The number of the band in force, 0 for none (R171). -/
def State.bandNumber (s : State) : Nat := match s.band with | none => 0 | some r => r.1

/-- Top-up is wanted (R110). -/
def State.topUpTest (s : State) : Bool :=
  (decide (s.store.condition = .ready) || decide (s.store.condition = .reserve))
    && (match s.store.soc with | none => false | some c => decide (c < s.site.settings.topUpTarget))
    && (match s.band with | none => false | some r => r.2.topUp)

/-! ## Sessions: lookup -/

/-- The OPEN session of a bay. -/
def State.openSession (s : State) (b : BayIx) : Option Session :=
  s.sess.table.find? (fun x => x.isOpen && decide (x.bay = b))

/-- A change of the bay's OPEN session record. -/
def State.mapOpen (s : State) (b : BayIx) (f : Session → Session) : State :=
  { s with sess.table := s.sess.table.map (fun x => if x.isOpen && decide (x.bay = b) then f x else x) }

/-! ## Segments (R120, R121) -/

/-- An empty segment under a band of the current generation. -/
def segmentFor (n : Nat) (b : Band) (generation : DWord) : Segment :=
  { band := n, generation := generation, gridPrice := b.gridPrice, sunPrice := b.sunPrice,
    batteryPrice := b.batteryPrice, sun := 0, battery := 0, grid := 0 }

def Segment.energy (g : Segment) : Nat := g.sun + g.battery + g.grid

/-- The segment list that a nonzero increment goes to the end of, and whether the segment limit is reached (R120, R121). -/
def placeSegment (segs : List Segment) (n : Nat) (b : Band) (generation : DWord) : List Segment × Bool :=
  match segs.getLast? with
  | none => ([segmentFor n b generation], false)
  | some g =>
    if g.band = n ∧ g.generation = generation then (segs, false)
    else if g.energy = 0 then (segs.dropLast ++ [segmentFor n b generation], false)
    else if segs.length < 16 then (segs ++ [segmentFor n b generation], false)
    else (segs, true)

/-- Energy added to the last segment. -/
def addToLast (segs : List Segment) (sun battery grid : Nat) : List Segment :=
  match segs.getLast? with
  | none => segs
  | some g => segs.dropLast ++ [{ g with sun := g.sun + sun, battery := g.battery + battery, grid := g.grid + grid }]

/-! ## The split (R116) -/

/-- The parts of an increment and the residues after it. -/
structure Split where
  sun : Nat
  battery : Nat
  grid : Nat
  sunRes : Nat
  batteryRes : Nat
  deriving DecidableEq, Repr

def splitEnergy (inc : Nat) (sh : Shares) (sunRes batteryRes : Nat) : Split :=
  let sunM := inc * sh.sun + sunRes
  let batM := inc * sh.battery + batteryRes
  let sun := sunM / 1000
  let bat := min (batM / 1000) (inc - sun)
  { sun := sun, battery := bat, grid := inc - sun - bat, sunRes := sunM - 1000 * sun, batteryRes := batM - 1000 * bat }

/-! ## The idle clock (R122) -/

/-- SATED ends, or the session closes: a running clock stops and its seconds are kept. -/
def IdleRec.stop (r : IdleRec) (now : Nat) : IdleRec :=
  match r.running with
  | none => r
  | some t => { r with seconds := r.seconds + (now - t), running := none }

/-- The idle minutes of a session: whole minutes of SATED time beyond the recorded grace. -/
def idleMinutes (r : IdleRec) : Nat :=
  match r.first with
  | none => 0
  | some f => if r.seconds < (f.grace + 1) * 60 then 0 else r.seconds / 60 - f.grace

/-- The Pricing Unit is told that SATED has ended. -/
def State.satedEnds (s : State) (b : BayIx) : State :=
  s.mapOpen b (fun x => { x with idle := x.idle.stop s.elapsed })

/-- The Pricing Unit is told that SATED has begun. -/
def State.satedBegins (s : State) (b : BayIx) : State :=
  let first := fun (x : Session) => match x.idle.first with
    | some f => some f
    | none => some { band := s.bandNumber, generation := s.price.generation, grace := s.site.settings.idleGrace,
                     price := match s.band with | none => 0 | some r => r.2.idlePrice }
  s.mapOpen b (fun x => { x with idle := { x.idle with running := some s.elapsed, first := first x } })

/-! ## Pricing at close (R123, R124) -/

/-- The amount of a segment, rounded half up. -/
def segmentAmount (g : Segment) : Nat :=
  (g.sun * g.sunPrice + g.battery * g.batteryPrice + g.grid * g.gridPrice + 500) / 1000

def energyLine (g : Segment) : Line :=
  { kind := .energy, band := g.band, generation := g.generation, figure := g.energy, amount := segmentAmount g }

/-- The idle line, when the idle minutes are above 0. -/
def idleLines (r : IdleRec) : List Line :=
  match r.first with
  | none => []
  | some f =>
    if idleMinutes r = 0 then []
    else [{ kind := .idle, band := f.band, generation := f.generation, figure := idleMinutes r,
            amount := idleMinutes r * f.price }]

/-- The credit of a voucher (R124). -/
def voucherCredit (v : Voucher) (subtotal : Nat) : Nat :=
  match v.kind with
  | .amount => min v.value subtotal
  | .percent => subtotal * v.value / 100

def creditOf (vouchers : List Voucher) (code : BitVec 64) (subtotal : Nat) : Nat :=
  match vouchers.find? (fun v => decide (v.code = code)) with
  | none => 0
  | some v => voucherCredit v subtotal

def sumAmounts (ls : List Line) : Nat := (ls.map (·.amount)).sum

/-- The frozen lines of a session (R123). -/
def billOf (vouchers : List Voucher) (x : Session) : Bill :=
  let energy := x.segments.map energyLine
  let idle := idleLines x.idle
  let subtotal := sumAmounts energy
  match x.voucher with
  | none => { lines := energy ++ idle, subtotal := subtotal, credit := 0, total := subtotal + sumAmounts idle }
  | some code =>
    let credit := creditOf vouchers code subtotal
    let line : Line := { kind := .voucher, band := 0, generation := 0, figure := 0, amount := credit }
    { lines := energy ++ idle ++ [line], subtotal := subtotal, credit := credit,
      total := subtotal + sumAmounts idle - credit }

/-! ## The store queue (R128) -/

/-- The greatest base a block write may have (R129). -/
def maxBase : Nat := 4294967232

def State.numbers (s : State) (k : NumberKind) : NumberBlock :=
  match k with | .session => s.price.sessions | .receipt => s.price.receipts

def State.setNumbers (s : State) (k : NumberKind) (n : NumberBlock) : State :=
  match k with
  | .session => { s with price.sessions := n }
  | .receipt => { s with price.receipts := n }

/-- A block write of a kind and base is queued or in progress. -/
def State.blockWaits (s : State) (k : NumberKind) (base : Nat) : Bool :=
  s.price.queue.any (fun j => decide (j = .block k base))
    || match s.price.active with | none => false | some a => decide (a.job = .block k base)

/-- A block write of a kind is queued or in progress, whatever its base (R138). -/
def State.anyBlockWaits (s : State) (k : NumberKind) : Bool :=
  let isK := fun (j : StoreJob) => match j with
    | .block k' _ => decide (k' = k)
    | .tariff _ _ => false
    | .lock _ => false
    | .unlock _ => false
  s.price.queue.any isK || match s.price.active with | none => false | some a => isK a.job

/-- A write is asked: it waits at the end of the queue. -/
def State.askWrite (s : State) (j : StoreJob) : State := { s with price.queue := s.price.queue ++ [j] }

/-- A block write whose base would be too great is not made: it counts as a failed write (R129). -/
def State.blockImpossible (s : State) : State :=
  ({ s with price.lastWrite := .failed } : State).raise .store

/-- A block write is asked (R128, R129), once for a kind and base. -/
def State.askBlock (s : State) (k : NumberKind) (base : Nat) : State :=
  if maxBase < base then s.blockImpossible
  else
    let s1 := s.setNumbers k { s.numbers k with asked := some base }
    if s1.blockWaits k base then s1 else s1.askWrite (.block k base)

/-- The next number of a kind, when its block is valid (R129). -/
def State.validNumber (s : State) (k : NumberKind) : Option Nat :=
  if (s.numbers k).valid then (s.numbers k).next else none

/-- A number is taken (R129): the next number rises, and at the end of the block the block is no longer valid and a write
of the new base is asked. -/
def State.takeNumber (s : State) (k : NumberKind) (n : Nat) : State :=
  let nb := s.numbers k
  if n + 1 = nb.base + 64 then
    (s.setNumbers k { nb with next := some (n + 1), valid := false }).askBlock k (n + 1)
  else s.setNumbers k { nb with next := some (n + 1) }

/-- A block write is asked again at an event that needs a number (R130). Without a next number (a damaged base) there is
nothing to write. -/
def State.askNumberAgain (s : State) (k : NumberKind) : State :=
  if s.anyBlockWaits k then s
  else match (s.numbers k).next with
    | none => s
    | some n => s.askBlock k n

/-- The tariff item as held. -/
def State.tariffHeld (s : State) : TariffItem :=
  ⟨s.price.bands, s.price.generation, s.price.locked, s.price.lockCount⟩

/-- The answer of the request that a store write belongs to, if it is still held. -/
def State.answerWrite (s : State) (place : Option (Fin 8)) (r : Reply) : State :=
  match place with
  | none => s
  | some p => s.answerPlace p r

/-- A write begins (R128), with the item it writes. -/
def State.startWrite (s : State) (j : StoreJob) (item : TariffItem) : State :=
  { s with price.active := some ⟨j, item⟩ }

/-- The write at the head of the queue is about to begin: a request's write is tested again (R119, R125, R126), and one
that fails is not made and is answered. -/
def State.beginWrite (s : State) (j : StoreJob) : State :=
  match j with
  | .tariff place bands =>
    if s.price.locked then s.answerWrite place (.refused .locked)
    else s.startWrite j { s.tariffHeld with bands := bands, generation := s.price.generation + 1 }
  | .lock place =>
    if s.price.locked ∨ s.price.bands = [] then s.answerWrite place (.refused .notAllowed)
    else s.startWrite j { s.tariffHeld with locked := true, lockCount := s.price.lockCount + 1 }
  | .unlock place =>
    if s.price.locked = false then s.answerWrite place (.refused .notAllowed)
    else if s.sess.table ≠ [] then s.answerWrite place (.refused .sessionsOpen)
    else
      ({ s with price.unlockPending := true } : State).startWrite j
        ⟨[], s.price.generation + 1, false, s.price.lockCount + 1⟩
  | .block _ _ => s.startWrite j s.tariffHeld

/-- Queued writes begin, one at a time, while none is in progress (R128). The fuel is the length of the queue. -/
def State.beginWrites : Nat → State → State
  | 0, s => s
  | n + 1, s =>
    match s.price.active, s.price.queue with
    | none, j :: js => State.beginWrites n (({ s with price.queue := js } : State).beginWrite j)
    | _, _ => s

def State.serveStore (s : State) : State := State.beginWrites s.price.queue.length s

end Sys2Proof.Machine
end

