-- ==== Sys2Proof/Machine/Receipts.lean ====
section
/-!
DEFINITION. The Receipt Unit (chapter 8): offer lists, screening, the read mark, the receipt record, composition,
placement and notices.
-/
namespace Sys2Proof.Machine

/-! ## Where the lists and slips stand (R169, R172) -/

/-- The first word of an offer list: its write index, then its read index, then its entries. -/
def offerBase (long : Bool) : Nat := if long then 0x0E80 else 0x0E00

/-- The number of entries of an offer list. -/
def offerSize (long : Bool) : Nat := if long then 32 else 64

/-- The word of the offer entry that a count names. -/
def offerEntry (long : Bool) (count : Word) : Nat := offerBase long + 2 + count.toNat % offerSize long

/-- The first word of the receipt list entry that a count names. -/
def receiptEntry (count : Word) : Nat := 0x0F02 + 5 * (count.toNat % 128)

/-- The first word of a slip. -/
def slipBase (slip : Nat) : Nat := if slip < 128 then 0x2000 + 64 * slip else 0x4000 + 256 * (slip - 128)

/-- The words of a slip: 128 bytes short, 512 bytes long. -/
def slipWords (slip : Nat) : Nat := if slip < 128 then 64 else 256

def State.offers (s : State) (long : Bool) : OfferList := if long then s.rcpt.long else s.rcpt.short

def State.setOffers (s : State) (long : Bool) (l : OfferList) : State :=
  if long then { s with rcpt.long := l } else { s with rcpt.short := l }

/-! ## Offers (R133 to R135) -/

/-- The read index passes every skipped entry at it, and their copies are dropped (R135). -/
def dropSkipped : Word → List OfferCopy → Word × List OfferCopy
  | r, [] => (r, [])
  | r, c :: cs => if c.skip then dropSkipped (r + 1) cs else (r, c :: cs)

/-- The read index moved past skipped entries, and written into the memory when it has moved from `old` (R135). -/
def State.settleOffers (s : State) (long : Bool) (old : Word) : State :=
  let l := s.offers long
  let p := dropSkipped l.read l.copies
  let s1 := s.setOffers long { l with read := p.1, copies := p.2 }
  if p.1 = old then s1 else s1.writeWords (offerBase long + 1) [p.1]

/-- The entry at the read index is consumed (R135). -/
def State.consumeOffer (s : State) (long : Bool) : State :=
  let l := s.offers long
  (s.setOffers long { l with read := l.read + 1, copies := l.copies.drop 1 }).settleOffers long l.read

/-- A slip index stands in an unconsumed entry that is not skipped. -/
def OfferList.offersSlip (l : OfferList) (slip : Nat) : Bool := l.copies.any (fun c => !c.skip && decide (c.slip = slip))

/-- A newly seen entry is a bad offer (R134). -/
def State.badOffer (s : State) (long : Bool) (slip : Nat) : Bool :=
  decide (159 < slip) || (if long then decide (slip < 128) else decide (128 ≤ slip))
    || s.rcpt.short.offersSlip slip || s.rcpt.long.offersSlip slip
    || s.rcpt.unread.any (fun e => decide (e.slip = slip))

/-- One newly seen entry is copied and screened (R133, R134). -/
def State.screenOffer (s : State) (long : Bool) (slip : Nat) : State :=
  let bad := s.badOffer long slip
  let l := s.offers long
  let s1 := s.setOffers long { l with copies := l.copies ++ [⟨slip, bad⟩] }
  if bad then { s1 with rcpt.badOffers := s1.rcpt.badOffers + 1 } else s1

/-- Newly seen entries in list order, oldest first. -/
def State.screenOffers (long : Bool) : List Nat → State → State
  | [], s => s
  | x :: xs, s => State.screenOffers long xs (s.screenOffer long x)

/-- The tests of R133 on a write index. -/
def OfferList.accepts (l : OfferList) (size : Nat) (new : Word) : Bool :=
  decide ((new - l.read).toNat ≤ size) && decide ((l.seen - l.read).toNat ≤ (new - l.read).toNat)

/-- A sweep hands over an offer list's write index (R133). -/
def State.seeOffers (s : State) (long : Bool) : State :=
  let l := s.offers long
  let new := s.xchg.mem.word (offerBase long)
  if l.accepts (offerSize long) new then
    let slips := (List.range (new - l.seen).toNat).map
      (fun i => (s.xchg.mem.word (offerEntry long (l.seen + BitVec.ofNat 16 i))).toNat)
    let s1 := State.screenOffers long slips s
    (s1.setOffers long { s1.offers long with seen := new }).settleOffers long l.read
  else s

/-! ## The read mark (R136) and notices (R143, R144) -/

/-- The unread count: write index less seen read mark. -/
def State.unreadCount (s : State) : Nat := (s.rcpt.write - s.rcpt.readMark).toNat

/-- The notices after the seen read mark has moved (R143, R144), by the threshold that the last placement took (section
8.6). DESIGN CHOICE (log entry 49): a mark set before the linger became 0 is cleared all the same. -/
def State.noticesAfterRead (s : State) : State :=
  let n := s.unreadCount
  { s with rcpt.threshold := s.rcpt.threshold && decide (s.rcpt.noticeThreshold ≤ n),
           rcpt.linger := if n = 0 then none else s.rcpt.linger }

/-- A sweep hands over the host's read mark (R136). -/
def State.seeReadMark (s : State) : State :=
  let new := s.xchg.mem.word 0x0F01
  let step := (new - s.rcpt.readMark).toNat
  if step = 0 then s
  else if step ≤ s.unreadCount then
    ({ s with rcpt.readMark := new, rcpt.unread := s.rcpt.unread.drop step } : State).noticesAfterRead
  else s

/-- The notices that a placement gives under the threshold in force (R143, R144). -/
def State.placementNotices (s : State) : State :=
  let linger := s.site.settings.noticeLinger
  if linger = 0 then s.raise .receipt
  else if s.rcpt.noticeThreshold ≤ s.unreadCount ∧ s.rcpt.threshold = false then
    ({ s with rcpt.threshold := true, rcpt.linger := none } : State).raise .receipt
  else { s with rcpt.linger := match s.rcpt.linger with | none => some (s.elapsed + linger) | some t => some t }

/-- The notices at a placement, at which a changed notice threshold takes effect (section 8.6, R166). -/
def State.noticesAtPlacement (s : State) : State :=
  ({ s with rcpt.noticeThreshold := s.site.settings.noticeThreshold } : State).placementNotices

/-! ## The receipt record (R141, R172) -/

def lineWords (l : Line) : List Word :=
  [natWord l.kind.code, natWord l.band] ++ dwordWords l.generation ++ showDWord l.figure ++ showDWord l.amount

def accountWords (a : Option (BitVec 128)) : List Word :=
  match a with
  | none => 0 :: List.replicate 8 0
  | some v => 1 :: fieldWords 8 v

def codeWords (c : Option (BitVec 64)) : List Word :=
  match c with
  | none => 0 :: List.replicate 4 0
  | some v => 1 :: fieldWords 4 v

/-- The record from its first field to its last line, in the order of R172. -/
def recordWords (number : Nat) (x : Session) (b : Bill) : List Word :=
  showDWord number ++ showDWord x.number ++ [natWord (x.bay.val + 1), natWord x.authority.code]
    ++ accountWords x.account ++ showDWord x.opened ++ showDWord (x.closed.getD 0) ++ [natWord (causeCode x.cause)]
    ++ showDWord x.total ++ showDWord x.sun ++ showDWord x.battery ++ showDWord x.grid
    ++ codeWords x.voucher ++ showDWord b.credit ++ [natWord b.lines.length] ++ showDWord b.total
    ++ b.lines.flatMap lineWords

/-- The XOR of 32-bit words, given as their 16-bit halves in order. -/
def xorHalves : List Word → Word × Word
  | hi :: lo :: ws => let r := xorHalves ws; (hi ^^^ r.1, lo ^^^ r.2)
  | [hi] => (hi, 0)
  | [] => (0, 0)

/-- A whole slip: the record, zeros up to the check word, and the check word (R140, R172). -/
def slipImage (size number : Nat) (x : Session) (b : Bill) : List Word :=
  let body := (recordWords number x b ++ List.replicate size 0).take (size - 2)
  let c := xorHalves body
  body ++ [c.1, c.2]

/-! ## Composition and placement (R137 to R142) -/

/-- The oldest UNBILLED record, in the table's order (R137). -/
def State.oldestUnbilled (s : State) : Option Session := s.sess.table.find? (fun x => !x.isOpen)

/-- The list that gives a slip for a receipt of so many lines, and the slip (R139). -/
def State.chooseSlip (s : State) (lines : Nat) : Option (Bool × Nat) :=
  let long := s.rcpt.long.copies.head?.map (fun c => (true, c.slip))
  if lines ≤ 3 then
    match s.rcpt.short.copies.head? with
    | some c => some (false, c.slip)
    | none => long
  else long

/-- The receipt list has room (R136). -/
def State.hasRoom (s : State) : Bool := decide (s.unreadCount ≠ 128)

/-- The slip test of an attempt (R138). -/
def State.slipTest (s : State) (ok : Bool) : State :=
  if ok then { s with rcpt.wantSlips := false }
  else if s.rcpt.wantSlips then s
  else ({ s with rcpt.wantSlips := true, rcpt.slipsOut := s.rcpt.slipsOut + 1 } : State).raise .slips

/-- The room test of an attempt (R138). -/
def State.roomTest (s : State) : State :=
  if s.hasRoom then { s with rcpt.wantRoom := false }
  else if s.rcpt.wantRoom then s
  else ({ s with rcpt.wantRoom := true } : State).raise .full

/-- The number test of an attempt (R138). -/
def State.numberTest (s : State) : State :=
  match s.validNumber .receipt with
  | some _ => s
  | none => s.askNumberAgain .receipt

/-- The voucher that a placed session named leaves the table (R44, R142). -/
def dropVoucher (code : Option (BitVec 64)) (vs : List Voucher) : List Voucher :=
  match code with
  | none => vs
  | some c => vs.filter (fun v => decide (v.code ≠ c))

/-- A receipt is composed and placed as one whole (R140, R142). -/
def State.placeReceipt (s : State) (x : Session) (long : Bool) (slip number : Nat) : State :=
  let b := x.bill.getD (billOf s.sess.vouchers x)
  let s1 := (s.consumeOffer long).takeNumber .receipt number
  let s2 := s1.writeWords (slipBase slip) (slipImage (slipWords slip) number x b)
  let s3 := s2.writeWords (receiptEntry s2.rcpt.write) (natWord slip :: showDWord number ++ showDWord x.number)
  let w := s3.rcpt.write + 1
  let s4 := { s3 with rcpt.unread := s3.rcpt.unread ++ [UnreadEntry.mk slip number x.number], rcpt.write := w }
  let s5 := s4.writeWords 0x0F00 [w]
  let s6 := { s5 with sess.table := s5.sess.table.filter (fun y => decide (y.number ≠ x.number)),
                      sess.vouchers := dropVoucher x.voucher s5.sess.vouchers }
  s6.noticesAtPlacement

/-- One composition attempt on the oldest UNBILLED record: all three tests are made, and a receipt is placed when all
pass (R138). The flag says that one was placed. -/
def State.attempt (s : State) : State × Bool :=
  match s.oldestUnbilled with
  | none => (s, false)
  | some x =>
    let lines := (x.bill.getD (billOf s.sess.vouchers x)).lines.length
    let slip := s.chooseSlip lines
    let tested := ((s.slipTest slip.isSome).roomTest).numberTest
    match slip, s.hasRoom, s.validNumber .receipt with
    | some (long, i), true, some n => (tested.placeReceipt x long i n, true)
    | _, _, _ => (tested, false)

/-- Attempts until one fails or no UNBILLED record is left (R137). -/
def State.attempts : Nat → State → State
  | 0, s => s
  | n + 1, s =>
    let r := s.attempt
    if r.2 then State.attempts n r.1 else r.1

/-- A composition attempt with those that follow it (R137): at most one for each record of the table, and a last one. -/
def State.compose (s : State) : State := State.attempts (s.sess.table.length + 1) s

/-- The Receipt Unit's part of a sweep (R151, steps 1 and 2): the read mark first, then the offer write indexes; each step
that moves an index is followed by an attempt (R137). -/
def State.sweepReceipts (s : State) : State :=
  let s1 := s.seeReadMark
  let s2 := if s1.rcpt.readMark = s.rcpt.readMark then s1 else s1.compose
  let s3 := (s2.seeOffers false).seeOffers true
  if s3.rcpt.short.seen = s2.rcpt.short.seen ∧ s3.rcpt.long.seen = s2.rcpt.long.seen then s3 else s3.compose

end Sys2Proof.Machine
end

