-- ==== Sys2Proof/Machine/Sessions.lean ====
section
/-!
DEFINITION. The Session Unit (chapter 2): bay state changes, openings, ends and closes of sessions, keypad codes, draw
detection, poll reports, and the enrolment, silence and park events that reach a bay.
-/
namespace Sys2Proof.Machine

/-! ## Bay records -/

/-- A change of a bay's state (R24). An event that leaves the state as it was is none. -/
def State.setBayState (s : State) (b : BayIx) (st : BayState) : State :=
  let r := s.bayOf b
  if r.state = st then s
  else ((s.setBay b { r with state := st, change := r.change + 1 }).raise .bay).askPage

/-- A bay in the eligible set (R64). -/
def BayState.eligible : BayState → Bool
  | .awaitPower | .charging | .sated => true
  | .unfitted | .seeking | .vacant | .plugged | .ending | .faulted | .silent | .parked => false

/-- The low-draw start and the high-draw count cleared. -/
def State.clearDraw (s : State) (b : BayIx) : State :=
  s.setBay b { s.bayOf b with lowStart := none, highCount := 0 }

/-- What R25 clears when an enrolment event makes a bay SEEKING, UNFITTED or VACANT; its park pending is kept. -/
def State.clearEnrol (s : State) (b : BayIx) : State :=
  s.setBay b { s.bayOf b with wrongCodes := [], cooldown := none, lowStart := none, highCount := 0, freePending := false }

/-! ## The Allotment Unit's first act on an end (R71) -/

/-- The grant becomes 0, the bay leaves the wait list, and a GRANT 0 is queued when the record is NAMED and no PARK is
queued. The round of step 4 is asked separately, since a site restart starts none. -/
def State.allotLeave (s : State) (b : BayIx) : State :=
  let s1 := s.setGrant b 0
  let s2 := { s1 with allot.waitList := s1.allot.waitList.filter (fun x => decide (x ≠ b)) }
  if (s2.recOf (.bay b)).link = .named then s2.queueGrant b 0 else s2

/-! ## Parking (R21, R46) -/

/-- Once park pending is yes, the bay has no OPEN session and its record is NAMED, the bay is asked to park; the bay is
then VACANT, PLUGGED or FAULTED. -/
def State.askPark (s : State) (b : BayIx) : State :=
  let r := s.bayOf b
  if r.parkPending ∧ r.session = none ∧ (s.recOf (.bay b)).link = .named
      ∧ (r.state = .vacant ∨ r.state = .plugged ∨ r.state = .faulted) then s.queuePark b
  else s

/-! ## Closing (R32, R33, R44) -/

/-- The frozen record of a session at close: closed time, UNBILLED, idle clock stopped, lines made. -/
def closedRecord (clock elapsed : Nat) (vouchers : List Voucher) (x : Session) : Session :=
  let y := { x with closed := some clock, isOpen := false, idle := x.idle.stop elapsed }
  { y with bill := some (billOf vouchers y) }

/-- A session that closes with a total of 0 Wh and 0 idle minutes is void (R33). -/
def Session.isVoid (x : Session) : Bool := decide (x.total = 0) && decide (idleMinutes x.idle = 0)

/-- The bound voucher of a void session: ISSUED again while its expiry is later than the site clock, removed otherwise
(R44). -/
def releaseVoucher (clock : Nat) (code : Option (BitVec 64)) (vs : List Voucher) : List Voucher :=
  match code with
  | none => vs
  | some c => (vs.filter (fun v => !(decide (v.code = c) && decide (v.expiry ≤ clock)))).map
      (fun v => if v.code = c then { v with inUse := false } else v)

/-- A void session leaves the table at once (R33). -/
def State.dropVoid (s : State) (x : Session) : State :=
  { s with sess.table := s.sess.table.filter (fun y => decide (y.number ≠ x.number)),
           sess.vouchers := releaseVoucher s.xchg.clock x.voucher s.sess.vouchers,
           sess.voids := s.sess.voids + 1 }

/-- The close of a bay's OPEN session, in the order of R32, with the bay's new state. DESIGN CHOICE (log entry 44): every
close clears the low-draw start and the high-draw count, which R31 states for the entry to ENDING alone. -/
def State.closeSession (s : State) (b : BayIx) (new : BayState) : State :=
  match s.openSession b with
  | none => s.setBayState b new
  | some x =>
    let y := closedRecord s.xchg.clock s.elapsed s.sess.vouchers x
    let s1 := s.mapOpen b (fun _ => y)
    let s2 := s1.setBay b { s1.bayOf b with session := none, latch := .release, lowStart := none, highCount := 0 }
    let s3 := (s2.queueLatch b .release).setBayState b new
    let s4 := if y.isVoid then s3.dropVoid y else s3.compose
    let s5 := s4.answerAll .stopSession (b.val + 1) (.done .none (showDWord y.number ++ [natWord (causeCode y.cause)]))
    let s6 := s5.askPark b
    if new = .plugged ∧ s6.freeOn = false then s6.queueShow b .enterCode else s6

/-- The end cause recorded. -/
def State.recordCause (s : State) (b : BayIx) (c : EndCause) : State :=
  s.mapOpen b (fun x => { x with cause := some c })

/-- An immediate close of a session in AWAIT_POWER, CHARGING or SATED (R40 to R42): the cause is recorded, R71 is taken,
and the session closes; the round of R71 is asked. -/
def State.closeAtOnce (s : State) (b : BayIx) (c : EndCause) (new : BayState) : State :=
  ((((s.recordCause b c).allotLeave b).closeSession b new)).askRound

/-! ## Ending (R31) -/

/-- The entry to ENDING, for a bay in AWAIT_POWER, CHARGING or SATED. -/
def State.endSession (s : State) (b : BayIx) (c : EndCause) : State :=
  if (s.bayOf b).state.eligible then
    let s1 := ((s.recordCause b c).setBayState b .ending).clearDraw b
    let s2 := ((s1.queueShow b .finished).allotLeave b).headPoll b
    (s2.satedEnds b).askRound
  else s

/-! ## Opening (R30) -/

/-- How an opening that was tried has gone. -/
inductive Opening where
  | opened (number : Nat)
  | refused (reason : Reason)
  deriving DecidableEq, Repr

/-- The new record of an opening. -/
def newSession (s : State) (b : BayIx) (n : Nat) (a : Authority) (account : Option (BitVec 128))
    (code : Option (BitVec 64)) (limit : Option Nat) : Session :=
  { number := n, bay := b, opened := s.xchg.clock, closed := none, authority := a, account := account, voucher := code,
    limit := limit, lastReading := none, total := 0, sun := 0, battery := 0, grid := 0, sunRes := 0, batteryRes := 0,
    segments := match s.band with | none => [] | some r => [segmentFor r.1 r.2 s.price.generation],
    idle := ⟨0, none, none⟩, cause := none, isOpen := true, bill := none }

/-- The bound voucher becomes IN_USE (R44). -/
def bindVoucher (code : Option (BitVec 64)) (vs : List Voucher) : List Voucher :=
  match code with
  | none => vs
  | some c => vs.map (fun v => if v.code = c then { v with inUse := true } else v)

/-- An opening that has passed its checks takes effect in the order of R30. -/
def State.openNow (s : State) (b : BayIx) (n : Nat) (a : Authority) (account : Option (BitVec 128))
    (code : Option (BitVec 64)) (limit : Option Nat) : State :=
  let x := newSession s b n a account code limit
  let s1 := s.takeNumber .session n
  let s2 := { s1 with sess.table := s1.sess.table ++ [x], sess.vouchers := bindVoucher code s1.sess.vouchers }
  let s3 := (s2.setBay b { s2.bayOf b with session := some n, latch := .lock }).queueLatch b .lock
  let s4 := s3.setBayState b .awaitPower
  let s5 := s4.setBay b { s4.bayOf b with wrongCodes := [], freePending := false }
  let s6 := s5.queueShow b .waiting
  ({ s6 with allot.waitList := s6.allot.waitList ++ [b] } : State).askRound

/-- An opening tried for a PLUGGED bay (R30): park pending, tariff, room, in this order. -/
def State.tryOpen (s : State) (b : BayIx) (a : Authority) (account : Option (BitVec 128)) (code : Option (BitVec 64))
    (limit : Option Nat) : State × Opening :=
  if (s.bayOf b).parkPending then (s, .refused .notAllowed)
  else if s.price.bands = [] ∨ s.price.unlockPending then (s.queueShow b .outOfService, .refused .noTariff)
  else
    match s.validNumber .session with
    | none => ((s.askNumberAgain .session).queueShow b .outOfService, .refused .noSessionRoom)
    | some n =>
      if 32 ≤ s.sess.table.length then (s.queueShow b .outOfService, .refused .noSessionRoom)
      else (s.openNow b n a account code limit, .opened n)

/-- The free opening (R37): a refusal NO_SESSION_ROOM makes it pending. The flag says that a session was opened. -/
def State.tryFree (s : State) (b : BayIx) : State × Bool :=
  let r := s.tryOpen b .free none none none
  match r.2 with
  | .opened _ => (r.1, true)
  | .refused .noSessionRoom => (r.1.setBay b { r.1.bayOf b with freePending := true }, false)
  | .refused _ => (r.1, false)

/-- A bay becomes PLUGGED from VACANT or FAULTED (R27, R40): the free opening is tried when FREE authority is in force,
and SHOW ENTER_CODE is queued otherwise. -/
def State.plugIn (s : State) (b : BayIx) : State × Bool :=
  let s1 := s.setBayState b .plugged
  if s1.freeOn then s1.tryFree b else (s1.queueShow b .enterCode, false)

/-! ## Keypad codes (R35, R36) -/

/-- A wrong code counted (R36). -/
def State.wrongCode (s : State) (b : BayIx) : State :=
  let now := s.xchg.clock
  let r := s.bayOf b
  let recent := r.wrongCodes.filter (fun t => decide (now ≤ t + 300))
  if 2 ≤ recent.length then s.setBay b { r with wrongCodes := [], cooldown := some (now + 60) }
  else s.setBay b { r with wrongCodes := recent ++ [now] }

/-- The entry a keypad code matches: the same code, ISSUED, its expiry later than the site clock. -/
def State.matchVoucher (s : State) (code : BitVec 64) : Option Voucher :=
  s.sess.vouchers.find? (fun v => decide (v.code = code) && !v.inUse && decide (s.xchg.clock < v.expiry))

/-- The bay is in its cooldown (R35). -/
def State.cooling (s : State) (b : BayIx) : Bool :=
  match (s.bayOf b).cooldown with | none => false | some t => decide (s.xchg.clock < t)

/-- A keypad code reported by a bay module (R35). -/
def State.keypad (s : State) (b : BayIx) (code : BitVec 64) : State :=
  if s.cooling b ∨ (s.bayOf b).state ≠ .plugged then s
  else if (s.bayOf b).parkPending then s.queueShow b .outOfService
  else match s.matchVoucher code with
    | some _ => (s.tryOpen b .voucher none (some code) none).1
    | none => (s.queueShow b .codeRefused).wrongCode b

/-! ## Draw detection (R39) -/

def State.detectDraw (s : State) (b : BayIx) (power : Nat) : State :=
  let r := s.bayOf b
  match r.state with
  | .charging =>
    if 200 ≤ power then s.setBay b { r with lowStart := none }
    else match r.lowStart with
      | none => s.setBay b { r with lowStart := some s.xchg.clock }
      | some t =>
        if t + 120 ≤ s.xchg.clock then
          let s1 := s.setBayState b .sated
          (s1.setBay b { s1.bayOf b with lowStart := none }).satedBegins b
        else s
  | .sated =>
    if power ≤ 500 then s.setBay b { r with highCount := 0 }
    else if 2 ≤ r.highCount + 1 then
      let s1 := s.setBayState b .charging
      (s1.setBay b { s1.bayOf b with highCount := 0 }).satedEnds b
    else s.setBay b { r with highCount := r.highCount + 1 }
  | .unfitted | .seeking | .vacant | .plugged | .awaitPower | .ending | .faulted | .silent | .parked => s

/-! ## Poll reports (R26, R27, R40) -/

/-- Steps 4 to 6 of R26. -/
def State.reportRest (s : State) (b : BayIx) (r : BayReport) (skipKeypad : Bool) : State :=
  if r.stop ∧ (s.bayOf b).state.eligible then s.endSession b .stopButton
  else
    let s1 := match r.keypad with
      | none => s
      | some c => if skipKeypad ∨ s.freeOn then s else s.keypad b c
    s1.detectDraw b r.power

/-- A nonzero fault code (R40). -/
def State.reportFault (s : State) (b : BayIx) : State :=
  match (s.bayOf b).state with
  | .vacant | .plugged =>
    let s1 := (s.setBayState b .faulted).queueShow b .outOfService
    s1.setBay b { s1.bayOf b with freePending := false }
  | .awaitPower | .charging | .sated => (s.closeAtOnce b .bayFault .faulted).queueShow b .outOfService
  | .ending => (s.closeSession b .faulted).queueShow b .outOfService
  | .faulted | .unfitted | .seeking | .silent | .parked => s

/-- The connector step and what follows it (R26 steps 3 to 6, R27). -/
def State.reportConnector (s : State) (b : BayIx) (r : BayReport) : State :=
  match (s.bayOf b).state with
  | .vacant =>
    if r.present then let p := s.plugIn b; p.1.reportRest b r p.2 else s.reportRest b r false
  | .plugged =>
    if r.present then
      if (s.bayOf b).freePending then let p := s.tryFree b; p.1.reportRest b r p.2 else s.reportRest b r false
    else
      let s1 := s.setBayState b .vacant
      (s1.setBay b { s1.bayOf b with freePending := false }).reportRest b r false
  | .awaitPower | .charging | .sated =>
    if r.present then s.reportRest b r false else s.endSession b .unplugged
  | .unfitted | .seeking | .ending | .faulted | .silent | .parked => s.reportRest b r false

/-- A FAULTED bay with fault code 0 (R40): PLUGGED as from VACANT, or VACANT; then the report from step 4 on. -/
def State.reportRecovered (s : State) (b : BayIx) (r : BayReport) : State :=
  if r.present then let p := s.plugIn b; p.1.reportRest b r p.2
  else (s.setBayState b .vacant).reportRest b r false

/-- A poll report in the order of R26. `arrived` is the bay's state when the answer arrived: an answer whose own increment
has ended the session is not the final answer. One that also bears a fault code closes the session at once by R40's line for
ENDING, with the cause of the limit (both DEDUCED, log entry 7). -/
def State.pollReport (s : State) (b : BayIx) (r : BayReport) (arrived : BayState) : State :=
  let s1 := s.setBay b { s.bayOf b with power := r.power }
  if r.fault ≠ 0 then s1.reportFault b
  else match (s1.bayOf b).state with
    | .faulted => s1.reportRecovered b r
    | .ending =>
      if arrived = .ending then s1.closeSession b (if r.present then .plugged else .vacant) else s1
    | .unfitted | .seeking | .vacant | .plugged | .awaitPower | .charging | .sated | .silent | .parked =>
      s1.reportConnector b r

/-! ## Moves of the Allotment Unit (R38) -/

/-- Hold-back, escalation or grid loss: AWAIT_POWER, with SHOW WAITING; SATED ends. -/
def State.moveToWait (s : State) (b : BayIx) : State :=
  (((s.setBayState b .awaitPower).queueShow b .waiting).clearDraw b).satedEnds b

/-- Admission: CHARGING, with SHOW CHARGING. -/
def State.moveToCharging (s : State) (b : BayIx) : State :=
  ((s.setBayState b .charging).queueShow b .charging).clearDraw b

/-! ## Enrolment events (R25, R42) -/

/-- The bay's record has become UNNAMED with fit IN. -/
def State.bayUnnamed (s : State) (b : BayIx) : State :=
  match (s.bayOf b).state with
  | .vacant | .plugged | .faulted | .parked | .unfitted => (s.setBayState b .seeking).clearEnrol b
  | .seeking | .silent | .awaitPower | .charging | .sated | .ending => s

/-- An enrolment of the bay has completed. -/
def State.bayEnrolled (s : State) (b : BayIx) : State :=
  match (s.bayOf b).state with
  | .seeking | .silent => ((s.setBayState b .vacant).clearEnrol b).askPark b
  | .ending => (s.closeSession b .vacant).clearEnrol b
  | .unfitted | .vacant | .plugged | .awaitPower | .charging | .sated | .faulted | .parked => s

/-- A session closed because another module stands at the bay's address. -/
def State.closeReplaced (s : State) (b : BayIx) (new : BayState) : State :=
  match (s.bayOf b).state with
  | .awaitPower | .charging | .sated => (s.closeAtOnce b .moduleReplaced new).clearEnrol b
  | .ending => ((s.recordCause b .moduleReplaced).closeSession b new).clearEnrol b
  | .unfitted | .seeking | .vacant | .plugged | .faulted | .silent | .parked => s

/-- The REPLACED report, before NAME (R9, R42). -/
def State.bayReplaced (s : State) (b : BayIx) : State := s.closeReplaced b .seeking

/-- A class mismatch at the bay's address. -/
def State.bayMismatch (s : State) (b : BayIx) : State :=
  match (s.bayOf b).state with
  | .seeking | .silent | .vacant | .plugged | .faulted | .parked => (s.setBayState b .unfitted).clearEnrol b
  | .awaitPower | .charging | .sated | .ending => s.closeReplaced b .unfitted
  | .unfitted => s

/-- The bay has become SILENT, by its third missed poll (R41) or its third failed enrolment attempt (R42). -/
def State.baySilent (s : State) (b : BayIx) : State :=
  match (s.bayOf b).state with
  | .awaitPower | .charging | .sated => s.closeAtOnce b .baySilent .silent
  | .ending => s.closeSession b .silent
  | .vacant | .plugged | .faulted => s.setBayState b .silent
  | .parked | .unfitted | .seeking | .silent => s

/-- A failed enrolment attempt that leaves the record's missed count at `missed` (R25, R42). -/
def State.bayEnrolFailed (s : State) (b : BayIx) (missed : Nat) : State :=
  match (s.bayOf b).state with
  | .awaitPower | .charging | .sated => if 3 ≤ missed then s.closeAtOnce b .baySilent .silent else s
  | .ending => if 3 ≤ missed then s.closeSession b .silent else s
  | .unfitted | .seeking | .vacant | .plugged | .faulted | .silent | .parked => s

/-- The module has acknowledged PARK (R46). DESIGN CHOICE (log entry 11): a session that a CANCEL let open before the
acknowledgement closes at once, with its recorded cause or STOPPED_BY_REQUEST. -/
def State.bayParked (s : State) (b : BayIx) : State :=
  let s1 := match (s.bayOf b).state with
    | .awaitPower | .charging | .sated => s.closeAtOnce b .stoppedByRequest .parked
    | .ending => s.closeSession b .parked
    | .unfitted | .seeking | .vacant | .plugged | .faulted | .silent | .parked => s.setBayState b .parked
  let s2 := s1.setBay b { s1.bayOf b with parkPending := false }
  s2.answerAll .parkBay (b.val + 1) (.done .none [])

end Sys2Proof.Machine
end

