-- ==== Sys2Proof/Machine/Hold.lean ====
section
/-!
DEFINITION. The hold controller and the grid watch (chapter 5), with the grant order of R68 that escalation and grid loss
share with the rounds.
-/
namespace Sys2Proof.Machine

/-! ## Grant order (R68) -/

/-- The flagged bays ascending, then the others from the bay after the mark round to the mark. -/
def grantOrder (flag : BayIx → Bool) (mark : BayIx) : List BayIx :=
  (List.finRange 24).filter flag
    ++ ((List.finRange 24).map (fun i => mark + 1 + i)).filter (fun b => !flag b)

def State.order (s : State) : List BayIx := grantOrder s.priorityOf s.allot.mark

/-- CHARGING or SATED: the bays that hold a grant (R72, R91, R96). -/
def BayState.powered : BayState → Bool
  | .charging | .sated => true
  | .unfitted | .seeking | .vacant | .plugged | .awaitPower | .ending | .faulted | .silent | .parked => false

/-- The bays in CHARGING or SATED, in grant order. -/
def State.poweredBays (s : State) : List BayIx := s.order.filter (fun b => (s.bayOf b).state.powered)

/-- One bay out of CHARGING or SATED (R91 step 1, R96 step 1): grant 0, AWAIT_POWER, the tail of the wait list, and a
GRANT 0 when its record is NAMED and no PARK is queued. -/
def State.sendToWait (s : State) (b : BayIx) : State :=
  let s1 := (s.setGrant b 0).moveToWait b
  let s2 := { s1 with allot.waitList := s1.allot.waitList ++ [b] }
  if (s2.recOf (.bay b)).link = .named then s2.queueGrant b 0 else s2

def State.sendAllToWait : List BayIx → State → State
  | [], s => s
  | b :: bs, s => State.sendAllToWait bs (s.sendToWait b)

/-! ## The effective limit (R88) -/

/-- The lowest limit of the active sources. -/
def limitOf (lineActive : Bool) (lineLimit : Nat) (request : Option HoldRequest) : Option Nat :=
  match lineActive, request with
  | true, some r => some (min lineLimit r.limit)
  | true, none => some lineLimit
  | false, some r => some r.limit
  | false, none => none

def State.effectiveLimit (s : State) : Option Nat :=
  limitOf s.hold.lineActive s.site.settings.holdLineLimit s.hold.request

/-! ## Hold states (section 5.2) -/

/-- A change of hold state (R93): HOLD_ACK is asserted in MET alone, GRID attention and a page rewrite follow, and the
Store Unit is told when MISSED is left (R91). -/
def State.setHold (s : State) (new : HoldState) : State :=
  let old := s.hold.state
  if old = new then s
  else
    let s1 := (({ s with hold.state := new, hold.ack := decide (new = .met) } : State).raise .grid).askPage
    if old = .missed then s1.setHoldView false else s1

/-- The answer of the GRID_HOLD that set the active request (R94): outcome, effective limit, good-sample count. -/
def State.answerHold (s : State) (o : Result) : State :=
  match s.hold.request with
  | none => s
  | some r =>
    match r.asker with
    | none => s
    | some p =>
      ({ s with hold.request := some { r with asker := none } } : State).answerPlace p
        (.done o (showDWord (s.effectiveLimit.getD 0) ++ [natWord s.hold.good]))

/-- A new demand (R88, R89): REQUESTED with count 0 and a deadline 60 s ahead. -/
def State.demand (s : State) : State :=
  ({ s with hold.deadline := some (s.elapsed + 60), hold.good := 0 } : State).setHold .requested

/-- The release (R92). -/
def State.release (s : State) : State :=
  ({ s with hold.deadline := none, hold.good := 0 } : State).setHold .clear

/-- The effective limit formed anew after it was `old` (R88). -/
def State.reformLimit (s : State) (old : Option Nat) : State :=
  match old, s.effectiveLimit with
  | none, none => s
  | none, some _ => s.demand
  | some _, none => s.release
  | some a, some b =>
    if b < a then
      match s.hold.state with
      | .requested | .met => s.demand
      | .missed => { s with hold.good := 0 }
      | .clear => s
    else s

/-- The entry to MISSED (R90, R91): the escalation, the Store Unit told, the GRID_HOLD answered. -/
def State.enterMissed (s : State) : State :=
  let s1 := ({ s with hold.deadline := none } : State).setHold .missed
  let s2 := State.sendAllToWait s1.poweredBays s1
  (s2.setHoldView true).answerHold .missed

/-- The entry to MET at the third good sample (R89). -/
def State.enterMet (s : State) : State :=
  (({ s with hold.deadline := none, hold.good := 3 } : State).setHold .met).answerHold .met

/-- A good sample in REQUESTED or MISSED. -/
def State.countGood (s : State) : State :=
  if 3 ≤ s.hold.good + 1 then s.enterMet else { s with hold.good := s.hold.good + 1 }

/-- An accepted sample (R89). -/
def State.holdSample (s : State) (power : Int) : State :=
  match s.effectiveLimit with
  | none => s
  | some limit =>
    match s.hold.state with
    | .clear => s
    | .requested => if power ≤ limit then s.countGood else { s with hold.good := 0 }
    | .met => if power ≤ limit then s else s.demand
    | .missed => if power ≤ limit then s.countGood else { s with hold.good := 0 }

/-- The deadline of a demand has passed (R89). -/
def State.deadlinePassed (s : State) : Bool :=
  match s.hold.deadline with
  | none => false
  | some t => decide (t ≤ s.elapsed)

/-- The deadline passes in REQUESTED (R90). -/
def State.holdDeadlinePasses (s : State) : State :=
  if s.hold.state = .requested ∧ s.deadlinePassed then s.enterMissed else s

/-- The line has held a level for 20 ms (R86). -/
def State.holdLine (s : State) (level : Bool) : State :=
  let old := s.effectiveLimit
  ({ s with site.holdIn := level, hold.lineActive := lineActive s.site.straps.holdpol level } : State).reformLimit old

/-- A GRID_HOLD in force (R87, R94), held at place `p`. -/
def State.startHold (s : State) (p : Fin 8) (limit minutes : Nat) : State :=
  let old := s.effectiveLimit
  let s1 := s.answerHold .replaced
  let s2 := { s1 with hold.request := some ⟨limit, s1.elapsed + 60 * minutes, some p⟩ }
  let s3 := s2.reformLimit old
  let fell := match old, s2.effectiveLimit with
    | none, _ => true
    | some a, some b => decide (b < a)
    | some _, none => false
  if fell then s3
  else match s3.hold.state with
    | .met => s3.answerHold .met
    | .missed => s3.answerHold .missed
    | .clear | .requested => s3

/-- The request source becomes inactive at its end (R87, R92): the limit is formed anew, and a request still unanswered is
answered EXPIRED. -/
def State.endRequest (s : State) (r : HoldRequest) : State :=
  let old := s.effectiveLimit
  let s1 := ({ s with hold.request := none } : State).reformLimit old
  match r.asker with
  | none => s1
  | some p => s1.answerPlace p (.done .expired (showDWord (s1.effectiveLimit.getD 0) ++ [natWord s1.hold.good]))

/-- The end time of the request source passes (R87). -/
def State.holdExpires (s : State) : State :=
  match s.hold.request with
  | none => s
  | some r => if r.endTime ≤ s.elapsed then s.endRequest r else s

/-- CANCEL of the unanswered request (R87): the source is inactive at once. -/
def State.cancelHold (s : State) : State :=
  let old := s.effectiveLimit
  ({ s with hold.request := none } : State).reformLimit old

/-- Site restart (R99). -/
def State.restartHold (s : State) : State :=
  let active := s.hold.lineActive
  let s1 := { s with hold.request := none, hold.good := 0,
                     hold.deadline := if active then some (s.elapsed + 60) else none }
  s1.setHold (if active then .requested else .clear)

/-! ## The grid watch (R95 to R97) -/

/-- A change of grid state (R95). -/
def State.setGrid (s : State) (new : GridState) (timer : ReturnTimer) : State :=
  let s1 : State := { s with grid := ⟨new, timer⟩ }
  if s.grid.state = new then s1 else (s1.raise .grid).askPage

/-- The entry to LOST (R96). -/
def State.gridLost (s : State) : State :=
  let s1 := s.setGrid .lost .stopped
  (State.sendAllToWait s1.poweredBays s1).setGridView true

/-- The entry to PRESENT (R97). -/
def State.gridPresent (s : State) : State := (s.setGrid .present .stopped).setGridView false

/-- The grid present flag of an accepted sample (R95, R97). -/
def State.gridSample (s : State) (present : Bool) : State :=
  match s.grid.state, present with
  | .present, false => s.gridLost
  | .present, true => s
  | .lost, false => s
  | .lost, true => s.setGrid .returning (.running (s.elapsed + 300))
  | .returning, false => s.gridLost
  | .returning, true => match s.grid.timer with
    | .runOut => s.gridPresent
    | .running _ => s
    | .stopped => s

/-- The return timer has run its 300 s (R97). -/
def State.returnOver (s : State) : Bool :=
  match s.grid.timer with
  | .running t => decide (t ≤ s.elapsed)
  | .stopped => false
  | .runOut => false

/-- The return timer runs out (R97). -/
def State.returnRunsOut (s : State) : State :=
  if s.grid.state = .returning ∧ s.returnOver then
    match s.meter.state with
    | .live => s.gridPresent
    | .blind => { s with grid.timer := .runOut }
  else s

end Sys2Proof.Machine
end

