-- ==== Sys2Proof/Machine/Round.lean ====
section
/-!
DEFINITION. Allotment rounds (chapter 4): the budget, hold-back, admission, water-filling and the ramp step as one plan
(R65 to R75), the setpoint and the ceilings (R77 to R80), the recording of both (R76, R78), and blind rounds (R82).
-/
namespace Sys2Proof.Machine

/-! ## The budget (R59, R66, R67) -/

/-- The demand allowance (R59). DESIGN CHOICE (log entry 19): the seconds remaining are at least 1. -/
def demandAllowance (target used start clock : Nat) : Option Nat :=
  if target = 0 then none
  else if target ≤ used then some 0
  else some ((target - used) * 3600 / max 1 (start + 900 - clock))

def State.demand? (s : State) : Option Nat :=
  demandAllowance s.site.settings.intervalTarget s.meter.used s.meter.intervalStart s.xchg.clock

/-- A limit that may be absent. -/
def capBy (n : Nat) : Option Nat → Nat
  | none => n
  | some m => min n m

/-- The effective hold limit, when the hold state is other than CLEAR (R66). -/
def State.holdCap (s : State) : Option Nat := if s.hold.state = .clear then none else s.effectiveLimit

/-- The import cap (R66). -/
def State.importCap (s : State) : Nat := capBy (capBy s.site.settings.importCap s.demand?) s.holdCap

/-- The budget (R67). -/
def State.budgetNow (s : State) : Nat :=
  min s.site.settings.feederLimit
    ((s.importCap : Int) + s.meter.latest.canopy + s.store.discharge - s.meter.latest.shop - s.site.settings.margin).toNat

/-! ## Water-filling (R74) -/

/-- What is left over after equal offers of 0: one quantum each from the start, until none is left. A place is the quanta
taken and the room. -/
def giveOnes : Nat → List (Nat × Nat) → List (Nat × Nat)
  | 0, l => l
  | _ + 1, [] => []
  | q + 1, p :: ps => if p.2 = 0 then p :: giveOnes (q + 1) ps else (p.1 + 1, p.2 - 1) :: giveOnes q ps

/-- The passes of R74. The fuel bounds the passes: each gives out a quantum or is the last. -/
def fillPasses : Nat → Nat → List (Nat × Nat) → List (Nat × Nat)
  | 0, _, l => l
  | fuel + 1, q, l =>
    let active := (l.filter (fun p => decide (p.2 ≠ 0))).length
    if active = 0 ∨ q = 0 then l
    else
      let offer := q / active
      if offer = 0 then giveOnes q l
      else fillPasses fuel (q - (l.map (fun p => min offer p.2)).sum)
        (l.map (fun p => (p.1 + min offer p.2, p.2 - min offer p.2)))

/-- The quanta that bays with the given rooms, in grant order, take out of `q`. -/
def waterFill (q : Nat) (rooms : List Nat) : List Nat :=
  (fillPasses (q + 1) q (rooms.map (fun r => (0, r)))).map (·.1)

/-! ## The plan of a round: steps 1 to 5 -/

/-- What steps 1 to 5 decide. `powered` are the grants of the bays that hold one after the round, in grant order. -/
structure Plan where
  budget : Nat
  held : List BayIx
  admitted : List BayIx
  powered : List (BayIx × Nat)
  mark : BayIx
  deriving DecidableEq, Repr

/-- The room of a bay at 1400 W, in quanta: its rating, or 14 if the rating is lower, less 14 (R74). -/
def State.roomOf (s : State) (b : BayIx) : Nat := (s.recOf (.bay b)).rating - 14

/-- The conditions of R73 that do not concern the budget. -/
def State.mayAdmit (s : State) : Bool :=
  decide (s.meter.state = .live) && decide (s.grid.state = .present) && decide (s.hold.state ≠ .missed)

/-- The ramp step (R75). -/
def ramp (old new : Nat) : Nat := min new (old + 3600)

/-- The bays that keep a grant after steps 2 and 3, in grant order, each with whether step 4 serves it. -/
def State.servedBays (s : State) (kept admitted : List BayIx) : List (BayIx × Bool) :=
  (s.order.filter (fun b => kept.contains b || admitted.contains b)).map
    (fun b => (b, admitted.contains b || decide ((s.bayOf b).state = .charging)))

/-- Steps 1 to 5 of a normal round (R65). -/
def State.plan (s : State) : Plan :=
  let budget := s.budgetNow
  let charging := s.poweredBays
  let k := budget / 1400
  let kept := charging.take k
  let left := budget - 1400 * kept.length
  let admitted := if s.mayAdmit then s.allot.waitList.take (left / 1400) else []
  let quanta := (left - 1400 * admitted.length) / 100
  let served := s.servedBays kept admitted
  let fill := waterFill quanta (served.map (fun p => if p.2 then s.roomOf p.1 else 0))
  let powered := (served.zip fill).map (fun p => (p.1.1, ramp (s.grantOf p.1.1) (1400 + 100 * p.2)))
  { budget := budget, held := charging.drop k, admitted := admitted, powered := powered,
    mark := match powered.find? (fun p => !s.priorityOf p.1) with
      | none => s.allot.mark
      | some p => p.1 }

/-- The grant that a plan decides for a bay: 0 for one that is not powered. -/
def Plan.grantOf (p : Plan) (b : BayIx) : Nat :=
  match p.powered.find? (fun x => decide (x.1 = b)) with
  | none => 0
  | some x => x.2

def Plan.total (p : Plan) : Nat := (p.powered.map (·.2)).sum

/-! ## The battery setpoint and the ceilings: step 6 -/

/-- The sum of the recorded grants. -/
def State.grantSum (s : State) : Nat := ((List.finRange 24).map s.grantOf).sum

/-- The net draw (R77): shop load and grants less the canopy. -/
def netDraw (shop grants canopy : Nat) : Int := (shop : Int) + grants - canopy

/-- A branch of R77 whose amount works out at 0 W gives stance IDLE. -/
def choice (w : Int) (st : Stance) : Int × Stance := if w = 0 then (0, .idle) else (w, st)

/-- The setpoint in W and the stance (R77). -/
def chooseSetpoint (net : Int) (cap discharge charge : Nat) (topUp : Bool) : Int × Stance :=
  if (cap : Int) < net then choice (min (net - cap) discharge) .supporting
  else if net < 0 then choice (-(min (-net) charge)) .soaking
  else if topUp then choice (-(min (cap - net) charge)) .topping
  else (0, .idle)

/-- The export the site would have (R79): no charge is ordered by a discharge. -/
def exportOf (net : Int) (w : Int) : Nat := (-net - (if w < 0 then -w else 0)).toNat

/-- The ceiling in W of a string, an OPEN one as its rating (R79). -/
def ceilingWatts (ceiling : Option Nat) (rating : Nat) : Nat := 100 * ceiling.getD rating

/-- A ceiling after a cut of `cut` W (R79). -/
def cutCeiling (ceiling : Option Nat) (rating output cut : Nat) : Nat :=
  (min (ceilingWatts ceiling rating) output - cut) / 100

/-- A ceiling raised by some units of 100 W (R80). -/
def raiseCeiling (ceiling : Option Nat) (rating units : Nat) : Option Nat :=
  match ceiling with
  | none => none
  | some c => if units = 0 then some c else if rating ≤ c + units then none else some (c + units)

/-- A string takes part in the ceiling steps (R79): NAMED and producing. -/
def State.takesPart (s : State) (i : StringIx) : Bool :=
  decide ((s.recOf (.string i)).link = .named) && (s.stringOf i).producing

/-- The new ceiling of a string for an export and an export limit in W (R79, R80). -/
def State.newCeiling (s : State) (exported limit : Nat) (i : StringIx) : Option Nat :=
  let parts := (List.finRange 6).filter s.takesPart
  let m := parts.length
  let u := s.stringOf i
  let c := s.allot.ceilings[i]
  if s.takesPart i = false then c
  else if limit < exported then
    some (cutCeiling c u.rating (u.output.getD 0) (100 * ((exported - limit + 100 * m - 1) / (100 * m))))
  else
    let relaxed := (parts.filter (fun j => (s.allot.ceilings[j]).isSome)).length
    raiseCeiling c u.rating ((limit - exported) / (100 * relaxed))

/-- The ceilings set for an export (R79, R80). -/
def State.setCeilings (s : State) (exported : Nat) : State :=
  { s with allot.ceilings := Vector.ofFn (fun i => s.newCeiling exported s.site.settings.exportLimit i) }

/-- Step 6 (R77 to R80), with the import cap and the grants of steps 1 and 5. -/
def State.chooseStance (s : State) (cap grants : Nat) : State :=
  if s.store.condition = .backup then { s with allot.setpoint := .formGrid, allot.stance := .idle }
  else
    let net := netDraw s.meter.latest.shop grants s.meter.latest.canopy
    let c := chooseSetpoint net cap s.store.discharge s.store.charge s.store.topUp
    { s with allot.setpoint := .watts c.1, allot.stance := c.2 }.setCeilings (exportOf net c.1)

/-! ## Recording and queueing: step 7 -/

/-- A GRANT with the recorded grant is queued when it differs from the last issued one and the record is NAMED (R76). A
held-back bay's GRANT 0 is queued when the record is NAMED (R72). -/
def State.issueGrant (s : State) (force : Bool) (b : BayIx) : State :=
  let r := s.recOf (.bay b)
  let units := s.grantOf b / 100
  if r.link = .named ∧ (force ∨ units ≠ r.issuedGrant) then s.queueGrant b units else s

/-- The GRANTs of a round, in grant order; `held` are the held-back bays. -/
def State.issueGrants (held : List BayIx) : List BayIx → State → State
  | [], s => s
  | b :: bs, s => State.issueGrants held bs (s.issueGrant (held.contains b) b)

/-- A CAP for a NAMED string whose ceiling differs from the last issued one (R80). -/
def State.issueCap (s : State) (i : StringIx) : State :=
  let r := s.recOf (.string i)
  if r.link = .named ∧ s.capUnits i ≠ r.issuedCap then s.queueCap i (s.capUnits i) else s

def State.issueCaps : List StringIx → State → State
  | [], s => s
  | i :: is, s => State.issueCaps is (s.issueCap i)

def State.waitAll : List BayIx → State → State
  | [], s => s
  | b :: bs, s => State.waitAll bs (s.moveToWait b)

def State.chargeAll : List BayIx → State → State
  | [], s => s
  | b :: bs, s => State.chargeAll bs (s.moveToCharging b)

/-- The grants, the wait list, the mark and the budget of a plan recorded (R69, R70, R76). -/
def State.recordPlan (s : State) (p : Plan) : State :=
  { s with allot.grants := Vector.ofFn p.grantOf, allot.budget := p.budget, allot.mark := p.mark,
           allot.waitList := s.allot.waitList.drop p.admitted.length ++ p.held }

/-- The inputs that the Store Unit forms at step 1 (R105, R110). -/
def State.roundInputs (s : State) : State := { s.formAllowances with store.topUp := s.topUpTest }

/-- A normal round (R65). -/
def State.normalRound (s0 : State) : State :=
  let s := s0.roundInputs
  let p := s.plan
  let cap := s.importCap
  let s1 := (s.recordPlan p).chooseStance cap p.total
  let s2 := State.chargeAll p.admitted (State.waitAll p.held s1)
  let s3 := State.issueGrants p.held s.order s2
  (State.issueCaps (List.finRange 6) s3.issueSetpoint).askPage

/-! ## Blind rounds (R82) -/

/-- The grant of a bay after step 1 of a blind round: a CHARGING bay is lowered to 1400 W (log entry 33). -/
def State.blindGrant (s : State) (b : BayIx) : Nat :=
  if (s.bayOf b).state = .charging then min (s.grantOf b) 1400 else s.grantOf b

/-- A blind round (R82). DESIGN CHOICE (log entry 46): it forms no allowances and does not test top-up, which R105 and R110
state for a round; both stay as the last normal round left them. -/
def State.blindRound (s : State) : State :=
  let s1 := { s with allot.grants := Vector.ofFn s.blindGrant }
  let s2 := { s1 with allot.setpoint := if s.store.condition = .backup then .formGrid else .watts 0,
                      allot.stance := .idle }
  ((State.issueGrants [] s2.order s2).issueSetpoint).askPage

/-! ## The rounds asked inside a command (R64) -/

def State.oneRound (s : State) : State :=
  match s.meter.state with
  | .live => s.normalRound
  | .blind => s.blindRound

def State.rounds : Nat → State → State
  | 0, s => s
  | n + 1, s => State.rounds n s.oneRound

/-- Every cause starts one round. In HALTED none runs. -/
def State.runRounds (s : State) : State :=
  let s1 := { s with roundsAsked := 0 }
  if s.site.run = .run then State.rounds s.roundsAsked s1 else s1

/-! ## The loss of the meter (R81) -/

/-- The Allotment Unit is told that the meter is lost. -/
def State.blindBegins (s : State) : State :=
  let timer := decide (s.site.run = .run) || s.allot.blindTimer
  ({ s with allot.blindBudget := s.grantSum, allot.blindTimer := timer } : State).askRound

end Sys2Proof.Machine
end

