-- ==== Sys2Proof/Machine/Meter.lean ====
section
/-!
DEFINITION. The Meter Unit (chapter 3) and the attribution of energy increments by the Pricing Unit (section 7.1).
-/
namespace Sys2Proof.Machine

/-! ## Shares (R60) -/

/-- A feeder of 0 W gives 0, 0 and 1000. -/
def sharesOf (feeder canopy : Nat) (flow : Int) : Shares :=
  let sunPower := min canopy feeder
  let batteryPower := min flow.toNat (feeder - sunPower)
  let sun := sunPower * 1000 / feeder
  let battery := batteryPower * 1000 / feeder
  ⟨sun, battery, 1000 - sun - battery⟩

/-- The shares in BLIND (R53, R61). -/
def blindShares : Shares := ⟨0, 0, 1000⟩

/-! ## The demand interval (R56, R57) -/

/-- The start of the interval that holds a site clock value. -/
def intervalOf (clock : Nat) : Nat := clock / 900 * 900

/-- The interval ends (R56). -/
def State.endInterval (s : State) : State :=
  { s with meter.used := 0, meter.residue := 0, meter.exceeded := false, meter.intervalStart := intervalOf s.xchg.clock }

/-- The site clock has passed the end of the interval in force (R56). -/
def State.intervalOver (s : State) : Bool := decide (s.meter.intervalStart + 900 ≤ s.xchg.clock)

/-- The end of the interval on the site clock (R56). -/
def State.intervalTick (s : State) : State := if s.intervalOver then s.endInterval else s

/-- One second of import at a grid power, in W·s beside the residue; export adds nothing (R57). -/
def importSeconds (residue : Nat) (power : Int) : Nat := residue + power.toNat

/-- The sample's import (R57): the used Wh saturates at 32 bits. -/
def State.addImport (s : State) (power : Int) : State :=
  let t := importSeconds s.meter.residue power
  { s with meter.used := min 4294967295 (s.meter.used + t / 3600), meter.residue := t % 3600 }

/-- The exceedance test (R57). -/
def State.testExceedance (s : State) : State :=
  let target := s.site.settings.intervalTarget
  if target ≠ 0 ∧ target < s.meter.used ∧ s.meter.exceeded = false then
    { s with meter.exceeded := true, meter.exceedances := s.meter.exceedances + 1 }
  else s

/-! ## Samples (R50, R51, R54) -/

/-- The tests of R50 that discard a sample: flag, check byte, duplicate. -/
def State.sampleGood (s : State) (m : SampleFrame) : Bool :=
  (decide (m.present = 0) || decide (m.present = 1)) && decide (m.check = xorBytes (sampleData m))
    && decide (s.meter.lastSeq ≠ some m.seq)

/-- A gap (R50, step 4). -/
def State.sampleGap (s : State) (m : SampleFrame) : Bool :=
  match s.meter.lastSeq with
  | none => false
  | some l => decide (m.seq ≠ l + 1)

/-- The restoring of a BLIND meter (R54, R83). -/
def State.meterRestored (s : State) : State :=
  match s.meter.state with
  | .live => s
  | .blind => ({ s with meter.state := .live, allot.blindTimer := false } : State).raise .meter

/-- Steps 1 and 2 of R51, with the gap counted. -/
def State.keepSample (s : State) (m : SampleFrame) : State :=
  { s with meter.gaps := if s.sampleGap m then s.meter.gaps + 1 else s.meter.gaps, meter.latest := sampleFields m,
           meter.lastSeq := some m.seq, meter.arrival := some s.xchg.clock, meter.watch := some s.elapsed }

/-- An accepted sample (R51). -/
def State.acceptSample (s : State) (m : SampleFrame) : State :=
  let f := sampleFields m
  let s1 := (s.keepSample m).meterRestored
  let s2 := { s1 with meter.shares := sharesOf f.feeder f.canopy f.flow }
  let s3 := (s2.addImport f.gridPower).testExceedance
  (((s3.gridSample f.gridPresent)).holdSample f.gridPower).askRound

/-- A sample taken in full (R49, R50): the receiver waits again, and a discarded sample has no other effect. -/
def State.takeSample (s : State) (m : SampleFrame) : State :=
  let s1 := { s with meter.receiver := .waiting }
  if s1.sampleGood m then s1.acceptSample m else s1

/-- 3 s have passed since the last accepted sample (R53). -/
def State.watchRunOut (s : State) : Bool :=
  match s.meter.watch with
  | none => false
  | some t => decide (t + 3 ≤ s.elapsed)

/-- The loss of the meter (R53). -/
def State.meterFails (s : State) : State :=
  let s1 := { s with meter.state := .blind, meter.watch := none, meter.shares := blindShares }
  (s1.raise .meter).blindBegins

/-- The meter watch expires (R53). In BLIND it does not, nor when a sample taken first has restarted it. -/
def State.loseMeter (s : State) : State :=
  if s.meter.state = .live ∧ s.watchRunOut then s.meterFails else s

/-- The blind timer expires (R82). -/
def State.blindTick (s : State) : State :=
  if s.allot.blindTimer ∧ s.meter.state = .blind then s.askRound else s

/-! ## Attribution (R115 to R121) -/

/-- The energy limit is reached (R117). -/
def Session.limitReached (x : Session) : Bool :=
  match x.limit with
  | none => false
  | some l => decide (l ≤ x.total)

/-- Steps 4 to 6 of R115 on the session record. -/
def Session.addEnergy (x : Session) (segs : List Segment) (sp : Split) (inc : Nat) : Session :=
  { x with segments := addToLast segs sp.sun sp.battery sp.grid, sun := x.sun + sp.sun,
           battery := x.battery + sp.battery, grid := x.grid + sp.grid, total := x.total + inc, sunRes := sp.sunRes,
           batteryRes := sp.batteryRes }

/-- The segment list that the increment goes to (R120); with no band in force the list stays. -/
def State.segmentsFor (s : State) (x : Session) : List Segment × Bool :=
  match s.band with
  | none => (x.segments, false)
  | some r => placeSegment x.segments r.1 r.2 s.price.generation

/-- An increment handed over with the module's last good reading after the answer (R115). -/
def State.addIncrement (s : State) (b : BayIx) (inc reading : Nat) : State :=
  match s.openSession b with
  | none => s
  | some x =>
    let s1 := s.mapOpen b (fun y => { y with lastReading := some reading })
    if inc = 0 then s1
    else
      let place := s.segmentsFor x
      let sp := splitEnergy inc s.meter.shares x.sunRes x.batteryRes
      let s2 := if place.2 then s1.endSession b .segmentLimit else s1
      let s3 := s2.mapOpen b (fun y => y.addEnergy place.1 sp inc)
      if (x.addEnergy place.1 sp inc).limitReached then s3.endSession b .energyLimit else s3

end Sys2Proof.Machine
end

