-- ==== Sys2Proof/Machine/Link.lean ====
section
/-!
DEFINITION. The Bay Link Unit (chapter 1): records becoming UNNAMED, enrolment, poll answers, missed exchanges, the checks
of an answer, the bus, and the poll scheduler.
-/
namespace Sys2Proof.Machine

/-! ## A record becomes UNNAMED (R6) -/

/-- The owning unit is told (R25, R42, R100, R111). -/
def State.reportUnnamed (s : State) (t : Target) : State :=
  match t with
  | .bay b => if (s.recOf t).fit = .isIn then s.bayUnnamed b else s
  | .string i => s.stringDown i
  | .store => s.converterDown

/-- The record becomes UNNAMED: no tag, no resend set, its frames out of the lanes, the owning unit told. -/
def State.becomeUnnamed (s : State) (t : Target) : State :=
  let r := s.recOf t
  (((s.setRec t { r with link := .unnamed, tag := 0, resend := .empty, enrol := none }).purge t)).reportUnnamed t

/-- A re-enrolment (R12, steps 1 and 2): UNNAMED, and WHO queued at once. -/
def State.reEnrol (s : State) (t : Target) : State := (s.becomeUnnamed t).queueWho t false

/-- R6: an UNNAMED record with fit IN is enrolled; one with fit BEYOND or MISMATCH is not, and neither is a NAMED or PARKED
record. -/
def ModuleRec.enrolling (r : ModuleRec) : Bool := decide (r.link = .unnamed) && decide (r.fit = .isIn)

/-! ## Roll calls (R11) -/

/-- ENROL_BAY for an address that is not above the fitted count. -/
def State.rollCall (s : State) (t : Target) : State :=
  let s1 := s.setRec t { s.recOf t with fit := .isIn, missed := 0 }
  ((s1.staleName t).becomeUnnamed t).queueWho t false

/-- A bay address above the fitted count: its record is BEYOND and no roll call is made. -/
def State.isBeyond (s : State) (t : Target) : Bool :=
  match t with
  | .bay b => !s.isFitted b
  | .string _ => false
  | .store => false

/-! ## The end of an enrolment: answers (R11) -/

/-- A RETURN_BAY names a bay, whose number is its address; no other address has one. -/
def State.answerReturn (s : State) (t : Target) (r : Reply) : State :=
  match t with
  | .bay _ => s.answerAll .returnBay t.address r
  | .string _ => s
  | .store => s

/-- The words of an ENROLLED answer to ENROL_BAY (R170): kind, serial, class, rating. -/
def enrolledWords (k : EnrolKind) (r : ModuleRec) : List Word :=
  [natWord k.code] ++ fieldWords 4 (r.serial.getD 0)
    ++ [natWord (match r.cls with | none => 0 | some c => c.code), natWord r.rating]

/-- ENROLLED answers each held ENROL_BAY and RETURN_BAY of the address. -/
def State.answerEnrolled (s : State) (t : Target) (k : EnrolKind) : State :=
  (s.answerAll .enrolBay t.address (.done .enrolled (enrolledWords k (s.recOf t)))).answerReturn t
    (.done .enrolled [natWord k.code])

/-- MISMATCH answers each held ENROL_BAY and RETURN_BAY of the address. -/
def State.answerMismatch (s : State) (t : Target) : State :=
  (s.answerAll .enrolBay t.address (.done .mismatch [])).answerReturn t (.done .mismatch [])

/-! ## WHO answers (R7, R9) -/

/-- The kind of an enrolment (R9). -/
def enrolKindOf (held : Option (BitVec 64)) (serial : BitVec 64) : EnrolKind :=
  match held with
  | none => .first
  | some x => if x = serial then .same else .replaced

/-- The owning unit is told of a class mismatch. -/
def State.reportMismatch (s : State) (t : Target) : State :=
  match t with
  | .bay b => s.bayMismatch b
  | .string i => s.stringMismatch i
  | .store => s.converterMismatch

/-- A WHO answer of the wrong class (R7). The record stays UNNAMED and is left alone: it is neither enrolled nor polled (R6).
DEDUCED (log entry 42): a WHO queued for it by the next cycle leaves the lane. -/
def State.classMismatch (s : State) (t : Target) : State :=
  let s1 := (s.setRec t { s.recOf t with fit := .mismatch }).dropLink t
  let s2 := { s1 with link.frameErrors := s1.link.frameErrors + 1 }
  (s2.reportMismatch t).answerMismatch t

/-- The record after a WHO answer of the right class (R7, R9). -/
def ModuleRec.identified (r : ModuleRec) (w : WhoReport) (k : EnrolKind) : ModuleRec :=
  { r with serial := some w.serial, cls := w.cls, rating := w.rating, enrol := some k,
           energy := match k with | .same => r.energy | .first => none | .replaced => none }

/-- A REPLACED module is counted, and a bay is told at once (R9). -/
def State.reportReplaced (s : State) (t : Target) (k : EnrolKind) : State :=
  match k with
  | .first => s
  | .same => s
  | .replaced =>
    let s1 := { s with link.replacedModules := s.link.replacedModules + 1 }
    match t with
    | .bay b => s1.bayReplaced b
    | .string _ => s1
    | .store => s1

/-- A good WHO answer (R7). -/
def State.whoAnswered (s : State) (t : Target) (p : List Byte) : State :=
  let w := whoReport p
  if w.cls = some t.cls then
    let r := s.recOf t
    let k := enrolKindOf r.serial w.serial
    ((s.setRec t (r.identified w k)).reportReplaced t k).queueName t
  else s.classMismatch t

/-! ## NAME acknowledged (R8, R9) -/

/-- The owning unit is told of a completed enrolment. -/
def State.reportEnrolled (s : State) (t : Target) (k : EnrolKind) : State :=
  match t with
  | .bay b => s.bayEnrolled b
  | .string i => s.stringEnrolled i k (s.recOf t).rating
  | .store => s.converterEnrolled k (s.recOf t).rating

/-- The re-sends of SAME and REPLACED (R9). -/
def State.reSend (s : State) (t : Target) (k : EnrolKind) : State :=
  match k with
  | .first => s
  | .same | .replaced =>
    match t with
    | .bay b => (s.queueGrant b (s.grantOf b / 100)).queueLatch b (s.bayOf b).latch
    | .string i => s.queueCap i (s.capUnits i)
    | .store => s.queueSetpoint s.allot.setpoint

/-- NAME with a tag is acknowledged: NAMED, the report, the re-sends, the answers (log entry 34). -/
def State.nameAcked (s : State) (t : Target) (tag : Byte) : State :=
  let r := s.recOf t
  let k := r.enrol.getD .first
  let s1 := s.setRec t { r with link := .named, tag := tag, missed := 0, enrol := none }
  ((s1.reportEnrolled t k).reSend t k).answerEnrolled t k

/-! ## POLL answers (R12, R13) -/

/-- An increment (R13): the counter against the last good reading, and whether it went backwards. -/
def incrementOf (last : Option Nat) (reading : Nat) : Nat × Bool :=
  match last with
  | none => (0, false)
  | some l => if l ≤ reading then (reading - l, false) else (0, true)

/-- Step 4 of R12 for a NAMED bay. -/
def State.takeReading (s : State) (b : BayIx) (reading : Nat) : State :=
  let r := s.recOf (.bay b)
  let inc := incrementOf r.energy reading
  let s1 := s.setRec (.bay b) { r with energy := some reading }
  let s2 := if inc.2 then s1.queueGrant b (s1.grantOf b / 100) else s1
  s2.addIncrement b inc.1 reading

/-- A re-queued frame of a resend set goes to the lane its missed frame came from (R4; the later one's of two, log entry
56); a GRANT stays out while a PARK is
queued (R17). -/
def State.requeue (s : State) (t : Target) (lane : Option Lane) (body : FrameBody) : State :=
  match lane with
  | none => s
  | some l => if body.laneKind = .grant ∧ s.queued .park t then s else s.join l ⟨some t, body⟩ false

/-- LOCK or RELEASE re-queued: the latch command held for the bay at that moment. -/
def State.requeueLatch (s : State) (t : Target) : State :=
  match t with
  | .bay b => s.queueLatch b (s.bayOf b).latch
  | .string _ => s
  | .store => s

/-- Step 6 of R12: the resend set is queued and emptied. DESIGN CHOICE (log entry 43): the order of the kinds, which R4 and
R12 do not give: PARK, GRANT, LOCK or RELEASE, CAP, SETPOINT. -/
def State.serveResend (s : State) (t : Target) : State :=
  let r := s.recOf t
  let s1 := s.setRec t { r with resend := .empty }
  let s2 := if r.resend.park then s1.join .urgent ⟨some t, .park⟩ false else s1
  let s3 := s2.requeue t r.resend.grant (.grant r.issuedGrant)
  let s4 := if r.resend.latch then s3.requeueLatch t else s3
  let s5 := s4.requeue t r.resend.cap (.cap r.issuedCap)
  s5.requeue t r.resend.setpoint (.setpoint r.issuedSetpoint)

/-- Steps 4 and 5 of R12: a NAMED bay's increment and events, a PARKED bay's reading alone (an UNNAMED bay: log entry 31),
and every report of a converter (R102, R111). -/
def State.takeReport (s : State) (t : Target) (p : List Byte) : State :=
  match t with
  | .bay b =>
    let r := bayReport p
    (match (s.recOf t).link with
      | .named => (s.takeReading b r.energy).pollReport b r (s.bayOf b).state
      | .parked => s.setRec t { s.recOf t with energy := some r.energy }
      | .unnamed => s)
  | .string i => s.stringReport i (Machine.stringReport p)
  | .store => s.converterReport (storeReport p)

/-- A POLL answer that passes R3 (R12). DESIGN CHOICE (log entry 47): the SETPOINT of a resend set is queued beside one that
the grid-forming watch of R108 has queued at the same report. -/
def State.pollAnswered (s : State) (t : Target) (p : List Byte) : State :=
  let r := s.recOf t
  if statusUnnamed p ∨ (r.link = .named ∧ 3 ≤ r.missed) then s.reEnrol t
  else ((s.setRec t { r with missed := 0 }).takeReport t p).serveResend t

/-! ## PARK acknowledged (R21) -/

def State.parkAcked (s : State) (b : BayIx) : State :=
  let r := s.recOf (.bay b)
  if r.link = .named then (s.setRec (.bay b) { r with link := .parked, issuedGrant := 0 }).bayParked b else s

/-! ## Missed exchanges (R4, R10, R14) -/

/-- The owning unit is told that the target is SILENT. -/
def State.reportSilent (s : State) (t : Target) : State :=
  match t with
  | .bay b => s.baySilent b
  | .string i => s.stringDown i
  | .store => s.converterDown

/-- While the target is a bay in ENDING with a NAMED record, its POLL is head-placed (R20). -/
def State.headPollTarget (s : State) (t : Target) : State :=
  match t with
  | .bay b => s.headPoll b
  | .string _ => s
  | .store => s

/-- A missed POLL (R14, R4). -/
def State.pollMissed (s : State) (t : Target) : State :=
  let r := s.recOf t
  let n := min 255 (r.missed + 1)
  let s1 := s.setRec t { r with missed := n }
  let s2 := { s1 with link.missedPolls := s1.link.missedPolls + 1 }
  (if n = 3 then s2.reportSilent t else s2).headPollTarget t

/-- The Session Unit is told of a failed enrolment attempt (R25). -/
def State.reportFailed (s : State) (t : Target) (n : Nat) : State :=
  match t with
  | .bay b => s.bayEnrolFailed b n
  | .string _ => s
  | .store => s

/-- A missed WHO or NAME of a record that is being enrolled (R10, R11). -/
def State.enrolMissed (s : State) (t : Target) : State :=
  let r := s.recOf t
  if r.enrolling then
    let n := min 255 (r.missed + 1)
    ((s.setRec t { r with missed := n }).reportFailed t n).answerAll .enrolBay t.address (.done .noAnswer [])
  else s

/-- A missed command enters the resend set, unless a frame of its kind for the target is queued (R4). -/
def State.enterResend (s : State) (t : Target) (k : LaneKind) (f : ResendSet → ResendSet) : State :=
  if s.queued k t then s
  else let r := s.recOf t; s.setRec t { r with resend := f r.resend }

/-- A missed exchange (R4). A NAME overtaken by a roll call fails nothing (log entry 13), and a withdrawn PARK enters no
resend set (R21). DESIGN CHOICE (log entry 56): a GRANT, CAP or SETPOINT missed while its kind already stands in the resend set
puts the lane of the later miss in place of the earlier one; R4 names one missed frame and its lane. -/
def State.exchangeMissed (s : State) (x : Exchange) : State :=
  match x.frame.target with
  | none => s
  | some t =>
    match x.frame.body with
    | .poll => s.pollMissed t
    | .who => s.enrolMissed t
    | .name _ => if x.stale then s else s.enrolMissed t
    | .grant _ => s.enterResend t .grant (fun r => { r with grant := some x.lane })
    | .lock => s.enterResend t .latch (fun r => { r with latch := true })
    | .release => s.enterResend t .latch (fun r => { r with latch := true })
    | .park => if x.withdrawn then s else s.enterResend t .park (fun r => { r with park := true })
    | .cap _ => s.enterResend t .cap (fun r => { r with cap := some x.lane })
    | .setpoint _ => s.enterResend t .setpoint (fun r => { r with setpoint := some x.lane })
    | .show _ => s

/-- A failed attempt (R4): the same frame again at once, or the exchange is missed and the bus free. -/
def State.attemptFails (s : State) (x : Exchange) : State :=
  if x.retry then ({ s with link.bus := .idle } : State).exchangeMissed x
  else { s with link.bus := .sending { x with retry := true } }

/-! ## The checks of an answer (R3) -/

/-- The tag test, with the exceptions of WHO, NAME and the UNNAMED status. -/
def tagOk (body : FrameBody) (held : Byte) (a : AnswerFrame) : Bool :=
  match body with
  | .who => true
  | .name _ => true
  | .poll => decide (a.tag = held) || (decide (a.tag = 0) && statusUnnamed a.payload)
  | .grant _ | .lock | .release | .show _ | .park | .cap _ | .setpoint _ => decide (a.tag = held)

/-- The bytes that the check byte of an answer covers. -/
def checkedBytes (a : AnswerFrame) : List Byte := [a.address, a.tag, a.kind, a.complement, a.length] ++ a.payload

/-- The six checks of R3. -/
def answerOk (x : Exchange) (r : ModuleRec) (a : AnswerFrame) : Bool :=
  decide (a.complement = ~~~a.kind) && decide (a.length.toNat ≤ 24) && decide (a.payload.length = a.length.toNat)
    && decide (answerLength x.frame.body r.cls = some a.length.toNat) && decide (a.check = xorBytes (checkedBytes a))
    && decide (a.address = x.frame.addressByte) && decide (a.kind = x.frame.body.kindByte)
    && tagOk x.frame.body r.tag a

/-- What a good answer does (R2, R12, R7, R8, R21). A WHO or NAME enrols only a record that is being enrolled (R6). -/
def State.answered (s : State) (x : Exchange) (t : Target) (p : List Byte) : State :=
  match x.frame.body with
  | .poll => s.pollAnswered t p
  | .who => if (s.recOf t).enrolling then s.whoAnswered t p else s
  | .name tag => if x.stale = false ∧ (s.recOf t).enrolling then s.nameAcked t tag else s
  | .park => (match t with
      | .bay b => s.parkAcked b
      | .string _ => s
      | .store => s)
  | .grant _ => s
  | .lock => s
  | .release => s
  | .show _ => s
  | .cap _ => s
  | .setpoint _ => s

/-- An answer received to its end while one is awaited (R3). -/
def State.takeAnswer (s : State) (a : AnswerFrame) : State :=
  match s.link.bus with
  | .awaiting x =>
    (match x.frame.target with
      | none => s
      | some t =>
        if answerOk x (s.recOf t) a then ({ s with link.bus := .idle } : State).answered x t a.payload
        else ({ s with link.frameErrors := s.link.frameErrors + 1 } : State).attemptFails x)
  | .idle => s
  | .sending _ => s
  | .abandoned => s
  | .window => s

/-- No lead byte within the answer window (R2). -/
def State.answerTimesOut (s : State) : State :=
  match s.link.bus with
  | .awaiting x => s.attemptFails x
  | .idle => s
  | .sending _ => s
  | .abandoned => s
  | .window => s

/-- An aborted frame is a frame error (R3). -/
def State.answerBreaks (s : State) : State :=
  match s.link.bus with
  | .awaiting x => ({ s with link.frameErrors := s.link.frameErrors + 1 } : State).attemptFails x
  | .idle => s
  | .sending _ => s
  | .abandoned => s
  | .window => s

/-! ## The bus (R2, R5, R18) -/

/-- The tag that a frame bears (R173): 0 for WHO and the broadcast, the tag the target holds for every other frame. -/
def State.tagFor (s : State) (f : Frame) : Byte :=
  match f.target with
  | none => 0
  | some t => if f.body = .who then 0 else (s.recOf t).tag

/-- The exchange that a lane entry begins. -/
def State.exchangeOf (s : State) (e : LaneEntry) (lane : Lane) : Exchange :=
  ⟨e.frame, lane, s.tagFor e.frame, false, false, false⟩

/-- The bus is free and a lane holds a frame (R2, R18): the first of the urgent lane, or else of the ordinary lane. -/
def State.takeFrame (s : State) : State :=
  match s.link.bus with
  | .idle =>
    (match s.link.urgent, s.link.ordinary with
      | e :: es, _ => { s with link.urgent := es, link.bus := .sending (s.exchangeOf e .urgent) }
      | [], e :: es => { s with link.ordinary := es, link.bus := .sending (s.exchangeOf e .ordinary) }
      | [], [] => s)
  | .sending _ => s
  | .awaiting _ => s
  | .abandoned => s
  | .window => s

/-- The moment a POLL or a WHO was last sent (section 1.3). -/
def ModuleRec.sent (r : ModuleRec) (body : FrameBody) (now : Nat) : ModuleRec :=
  match body with
  | .poll => { r with lastPoll := some now }
  | .who => { r with lastWho := some now }
  | .name _ | .grant _ | .lock | .release | .show _ | .park | .cap _ | .setpoint _ => r

/-- The last byte of the frame has left (R2, R5, R23). -/
def State.frameLeaves (s : State) : State :=
  match s.link.bus with
  | .sending x =>
    (match x.frame.target with
      | none => { s with link.bus := .window }
      | some t =>
        let s1 := s.setRec t ((s.recOf t).sent x.frame.body s.elapsed)
        { s1 with link.bus := .awaiting x })
  | .abandoned => { s with link.bus := .idle }
  | .idle => s
  | .awaiting _ => s
  | .window => s

/-- The hold window after the broadcast ends (R5). -/
def State.windowEnds (s : State) : State :=
  match s.link.bus with
  | .window => { s with link.bus := .idle }
  | .idle => s
  | .sending _ => s
  | .awaiting _ => s
  | .abandoned => s

/-! ## The poll scheduler (R19, R20) -/

/-- An absent time counts as 30 s or more ago (section 1.3). -/
def longAgo (last : Option Nat) (now : Nat) : Bool :=
  match last with
  | none => true
  | some t => decide (t + 30 ≤ now)

/-- A WHO or NAME for the target is queued. -/
def State.enrolQueued (s : State) (t : Target) : Bool :=
  s.link.ordinary.any (fun e => e.frame.body.enrols && decide (e.frame.target = some t))

/-- The scheduler reaches a NAMED record: cycle order, or the head of the lane for a bay in ENDING (R20). -/
def State.cyclePoll (s : State) (t : Target) : State :=
  match t with
  | .bay b => if (s.bayOf b).state = .ending then s.placeHead b else s.queuePoll t
  | .string _ => s.queuePoll t
  | .store => s.queuePoll t

/-- One record of a cycle (R19). -/
def State.cycleRecord (s : State) (t : Target) : State :=
  let r := s.recOf t
  match r.fit with
  | .beyond => s
  | .mismatch => s
  | .isIn =>
    match r.link with
    | .named => s.cyclePoll t
    | .parked => if longAgo r.lastPoll s.elapsed then s.queuePoll t else s
    | .unnamed =>
      if r.missed < 3 then (if s.enrolQueued t then s else s.queueWho t true)
      else if longAgo r.lastWho s.elapsed then s.queueWho t true else s

def State.cycleRecords : List Target → State → State
  | [], s => s
  | t :: ts, s => State.cycleRecords ts (s.cycleRecord t)

/-- Every frame of the previous cycle has left the ordinary lane. -/
def State.cycleDone (s : State) : Bool := s.link.ordinary.all (fun e => !e.cycle)

/-- At least 1 s has passed since the previous cycle started; none has started when the start is absent (R19). -/
def State.cycleSpaced (s : State) : Bool :=
  match s.link.cycleStart with
  | none => true
  | some t => decide (t + 1 ≤ s.elapsed)

/-- A cycle starts (R19). -/
def State.startCycle (s : State) : State :=
  if s.site.run = .run ∧ s.cycleDone ∧ s.cycleSpaced then
    State.cycleRecords Target.all { s with link.cycleStart := some s.elapsed }
  else s

end Sys2Proof.Machine
end

