-- ==== Sys2Proof/Machine/Page.lean ====
section
/-!
DEFINITION. The status page (sections 9.9 and 11.3): its blocks, a rewrite's start and end, and the requests for rewrites.
-/
namespace Sys2Proof.Machine

/-- The first word of the status page (R169). -/
def pageBase : Nat := 0x0600

/-- The number of words of the status page (R169). -/
def pageSize : Nat := 2048

/-- A block of `n` words: the words given, then zeros. -/
def pageBlock (n : Nat) (ws : List Word) : List Word := (ws ++ List.replicate n 0).take n

/-- The seconds left to an elapsed-time instant, 0 when it is absent. -/
def secondsTo (now : Nat) : Option Nat → Nat
  | none => 0
  | some t => t - now

/-! ## The blocks, in the order of R171 -/

/-- 0x001: the exchange block (R161). -/
def State.exchangeBlock (s : State) : List Word :=
  showDWord s.xchg.clock ++ showInt s.xchg.offset
    ++ [natWord s.site.run.code, showFlag s.site.siteSet, showFlag s.site.countersMissing, natWord s.placesUsed]

/-- A holder place: slot number, ticket, kind; 0xFFFF in the slot word of an empty place (R171). DESIGN CHOICE (log entry
16): the ticket and kind words of an empty place are 0. -/
def placeWords : Option Held → List Word
  | none => [0xFFFF, 0, 0]
  | some h => [natWord h.slot.val, h.ticket, h.kind]

/-- 0x010: the holder block. -/
def State.holderBlock (s : State) : List Word := s.xchg.holder.toList.flatMap placeWords

/-- 0x028: the counters, in the order of R161. -/
def State.counterBlock (s : State) : List Word :=
  dwordWords s.sess.voids ++ dwordWords s.xchg.lost ++ dwordWords s.link.missedPolls ++ dwordWords s.link.frameErrors
    ++ dwordWords s.meter.gaps ++ dwordWords s.meter.exceedances ++ dwordWords s.rcpt.slipsOut
    ++ dwordWords s.rcpt.badOffers ++ dwordWords s.link.replacedModules

/-- 0x040: the latest sample and the demand interval (R52). -/
def State.meterBlock (s : State) : List Word :=
  let u := s.meter
  [natWord u.state.code, u.latest.seq] ++ showDWord (u.arrival.getD 0) ++ showInt u.latest.gridPower
    ++ [showFlag u.latest.gridPresent] ++ showDWord u.latest.shop ++ showDWord u.latest.feeder
    ++ showDWord u.latest.canopy ++ showInt u.latest.flow
    ++ [natWord u.shares.sun, natWord u.shares.battery, natWord u.shares.grid]
    ++ showDWord u.intervalStart ++ showDWord u.used ++ showDWord s.site.settings.intervalTarget
    ++ [showFlag u.exceeded] ++ dwordWords u.gaps ++ dwordWords u.exceedances

/-- The budget shown: the blind budget in BLIND (R81, R84). -/
def State.shownBudget (s : State) : Nat :=
  match s.meter.state with
  | .live => s.allot.budget
  | .blind => s.allot.blindBudget

/-- A setpoint in W, FORM_GRID as 0. -/
def setpointWatts : Setpoint → Int
  | .watts w => w
  | .formGrid => 0

/-- The seconds shown of the return timer: 0 when it is not running (R95). -/
def returnSeconds (now : Nat) : ReturnTimer → Nat
  | .stopped => 0
  | .running t => t - now
  | .runOut => 0

/-- 0x060: budget, hold, grid, setpoint (R84, R93, R95, R110). The effective limit, named by R84 and R93, stands once. The
setpoint takes one word, signed: R77 and R106 keep it within the allowances, 25 500 W either way at most, and R171 gives two
words to a range above 65535 alone. DESIGN CHOICE (log entry 16): the form-grid word stands between the setpoint and the
stance. -/
def State.allotBlock (s : State) : List Word :=
  let h := s.hold
  showDWord s.shownBudget ++ showDWord (if h.state = .clear then 0 else s.effectiveLimit.getD 0)
    ++ [natWord h.state.code, showFlag h.lineActive]
    ++ (match h.request with
        | none => [0, 0, 0]
        | some r => showDWord r.limit ++ [showWord (r.endTime - s.elapsed)])
    ++ [showWord (secondsTo s.elapsed h.deadline), natWord h.good, natWord s.grid.state.code,
        showWord (returnSeconds s.elapsed s.grid.timer)]
    ++ [showSigned (setpointWatts s.allot.setpoint), showFlag (decide (s.allot.setpoint = .formGrid)), natWord s.allot.stance.code,
        showFlag s.store.topUp]

/-- The six words of a string (R113, R171). -/
def State.stringWords (s : State) (i : StringIx) : List Word :=
  let u := s.stringOf i
  [natWord u.link.code, natWord u.rating, natWord u.fault] ++ showDWord (if u.producing then u.output.getD 0 else 0)
    ++ [match s.allot.ceilings[i] with | none => 0xFFFF | some c => showWord (100 * c)]

/-- 0x080: the battery, then the six strings (R113). -/
def State.batteryBlock (s : State) : List Word :=
  let u := s.store
  [natWord u.condition.code, match u.soc with | none => 0xFFFF | some c => natWord c] ++ [showFlag u.reserve,
    natWord s.site.settings.reserveFloor] ++ showInt u.flow
    ++ [natWord u.fault, showFlag u.forming, natWord u.link.code, natWord u.rating, showWord u.discharge,
        showWord u.charge]
    ++ (List.finRange 6).flatMap s.stringWords

/-- The damaged-item word (R169). -/
def damageWord (d : DamageMarks) : Word :=
  natWord ((if d.tariff then 1 else 0) + (if d.session then 2 else 0) + (if d.receipt then 4 else 0))

/-- 0x0B0: the tariff, then the store status (R118, R128). -/
def State.tariffBlock (s : State) : List Word :=
  let u := s.price
  pageBlock 41 (bandsWords u.bands) ++ [natWord s.bandNumber] ++ dwordWords u.generation
    ++ [natWord s.site.settings.idleGrace, showFlag u.locked] ++ dwordWords u.lockCount
    ++ [showFlag u.unlockPending, showFlag u.active.isSome, natWord u.queue.length, natWord u.lastWrite.code,
        damageWord u.damaged]

/-- Seen write index, read index and entries waiting of an offer list (R145). DEDUCED (log entry 50): the entries waiting
are counted from the seen write index that stands beside them. -/
def offerFigures (l : OfferList) : List Word := [l.seen, l.read, l.seen - l.read]

/-- 0x0F0: the lists (R145); 0 for no UNBILLED record. -/
def State.listBlock (s : State) : List Word :=
  offerFigures s.rcpt.short ++ offerFigures s.rcpt.long ++ [s.rcpt.write, s.rcpt.readMark, natWord s.unreadCount]
    ++ [showFlag s.rcpt.wantSlips, showFlag s.rcpt.wantRoom, showFlag s.price.receipts.valid]
    ++ showDWord (match s.oldestUnbilled with | none => 0 | some x => x.number)
    ++ dwordWords s.rcpt.slipsOut ++ dwordWords s.rcpt.badOffers

/-- 0x110: the wait list (R84). -/
def State.waitBlock (s : State) : List Word :=
  natWord s.allot.waitList.length :: s.allot.waitList.map (fun b => natWord (b.val + 1))

/-- The ten words of a bay (R24, R171). DESIGN CHOICE (log entry 16): the session total of a bay without an OPEN session is
shown as 0. -/
def State.bayWords (s : State) (b : BayIx) : List Word :=
  let r := s.bayOf b
  [natWord r.state.code, r.change] ++ showDWord (s.grantOf b) ++ showDWord r.power ++ showDWord (r.session.getD 0)
    ++ showDWord (match s.openSession b with | none => 0 | some x => x.total)

/-- The page after its generation count, from word offset 0x001 on. DESIGN CHOICE (log entry 16): the words between two
blocks, 0x03A to 0x03F and 0x129 to 0x12F, are 0; the blocks before them are widened here by as many words. -/
def State.pageBody (s : State) : List Word :=
  pageBlock 15 s.exchangeBlock ++ pageBlock 24 s.holderBlock ++ pageBlock 24 s.counterBlock ++ pageBlock 32 s.meterBlock
    ++ pageBlock 32 s.allotBlock ++ pageBlock 48 s.batteryBlock ++ pageBlock 64 s.tariffBlock ++ pageBlock 32 s.listBlock
    ++ pageBlock 32 s.waitBlock ++ pageBlock 240 ((List.finRange 24).flatMap s.bayWords)
    ++ List.replicate (pageSize - 0x220) 0

/-! ## Rewrites (R159, R160) -/

/-- A rewrite starts: the count rises to odd and is written, and the page is written from the state as it stands (log
entry 16). -/
def State.startRewrite (s : State) : State :=
  let g := s.xchg.generation + 1
  { s with xchg.rewriting := true, xchg.generation := g, xchg.rewriteBegan := some s.elapsed }.writeWords pageBase
    (g :: s.pageBody)

/-- A rewrite ends: the count rises to even and is written, and a pending rewrite starts at once. -/
def State.endRewrite (s : State) : State :=
  if s.xchg.rewriting then
    let g := s.xchg.generation + 1
    let s1 := { s with xchg.rewriting := false, xchg.generation := g }.writeWords pageBase [g]
    if s1.xchg.rewritePending then ({ s1 with xchg.rewritePending := false } : State).startRewrite else s1
  else s

/-- The requests for rewrites made inside the command (R159): the first starts one when the writer is idle, and any other
sets the rewrite-pending mark. -/
def State.servePage (s : State) : State :=
  let s1 := { s with pageAsks := 0 }
  if s.pageAsks = 0 then s1
  else if s1.xchg.rewriting then { s1 with xchg.rewritePending := true }
  else
    let s2 := s1.startRewrite
    if 2 ≤ s.pageAsks then { s2 with xchg.rewritePending := true } else s2

end Sys2Proof.Machine
end

