-- ==== Sys2Proof/Machine/Requests.lean ====
section
/-!
DEFINITION. Requests (sections 9.5 to 9.7): the take of a slot, the checks of R153, what each kind does, CANCEL, and the
visit of one slot.
-/
namespace Sys2Proof.Machine

/-! ## The take (R152, R170) -/

/-- The part's copy of a taken slot, with the table that SET_SITE and SET_TARIFF name. -/
structure Taken where
  slot : Fin 48
  kind : Word
  complement : Word
  ticket : Word
  check : Word
  body : List Word
  table : List Word
  deriving DecidableEq, Repr

/-- The table named by body words 0 and 1; one that does not lie wholly within one host area is not copied. -/
def State.tableAt (s : State) (body : List Word) : List Word :=
  let offset := (bodyWord body 0).toNat
  let length := (bodyWord body 1).toNat
  if inHostArea offset length then s.mem.words offset length else []

def State.takenAt (s : State) (i : Fin 48) : Taken :=
  let w := fun n => s.mem.word (slotBase i + n)
  let body := s.mem.words (slotBase i + 5) 24
  { slot := i, kind := w 1, complement := w 2, ticket := w 3, check := w 4, body := body,
    table := if w 1 = Kind.setSite.code ∨ w 1 = Kind.setTariff.code then s.tableAt body else [] }

/-! ## The checks of R153 -/

/-- A bay field: bays 1 to 24 (R153, step 4). -/
def bayNumbered (n : Nat) : Option BayIx := if h : 1 ≤ n ∧ n ≤ 24 then some ⟨n - 1, by omega⟩ else none

/-- The last word of a table is the XOR of all its other words (R170). -/
def sealed (ws : List Word) : Bool := decide (ws.getLast? = some (xorWords ws.dropLast))

/-- A table of SET_SITE or SET_TARIFF is not as R170 wants it: its place, its length or its last word. -/
def Taken.badTable (q : Taken) (length : Nat) : Bool :=
  !inHostArea (bodyWord q.body 0).toNat (bodyWord q.body 1).toNat || decide ((bodyWord q.body 1).toNat ≠ length)
    || !sealed q.table

def Taken.malformed (q : Taken) (k : Kind) : Bool :=
  match k with
  | .setSite => q.badTable 27
  | .setTariff => q.badTable (2 + 5 * bandCount (bodyWord q.table 0))
  | .setClock | .authorise | .stopSession | .parkBay | .returnBay | .enrolBay | .postVoucher | .withdrawVoucher
  | .lockTariff | .unlockTariff | .setCounters | .gridHold | .cancel => false

/-- The greatest value of a power field: 1 000 000 W (section 10.4, R87). -/
def maxWatts : Nat := 1000000

/-- Every field of SET_SITE is inside its range (section 10.4). DESIGN CHOICE (log entry 20): a priority flag above bay
24 is out of range. -/
def SiteSettings.inRange (t : SiteSettings) : Bool :=
  decide (t.importCap ≤ maxWatts) && decide (t.feederLimit ≤ maxWatts) && decide (t.exportLimit ≤ maxWatts)
    && decide (t.margin ≤ maxWatts) && decide (t.holdLineLimit ≤ maxWatts) && decide (t.reserveFloor ≤ 980)
    && decide (t.topUpTarget ≤ 1000) && decide (t.dischargeLimit ≤ maxWatts) && decide (t.chargeLimit ≤ maxWatts)
    && decide (t.freeAuthority ≤ 1) && [1, 2, 4, 8, 16, 32, 64].contains t.noticeThreshold
    && decide (t.noticeLinger ≤ 60) && decide (t.idleGrace ≤ 1440) && [0, 8, 16, 24].contains t.fittedOverride
    && decide (t.speedOverride ≤ 2) && decide (t.priorityFlags.toNat < 16777216)

/-- A band's fields are inside their ranges (section 7.2). -/
def Band.inRange (b : Band) : Bool :=
  decide (b.startMinute ≤ 1439) && decide (b.gridPrice ≤ 9999) && decide (b.sunPrice ≤ 9999)
    && decide (b.batteryPrice ≤ 9999) && decide (b.idlePrice ≤ 9999)

/-- Start minutes strictly ascending (R119). -/
def ascending : List Band → Bool
  | [] => true
  | [_] => true
  | a :: b :: bs => decide (a.startMinute < b.startMinute) && ascending (b :: bs)

/-- A table of 1 to 8 bands, ascending, every field in range (R119). -/
def tariffInRange (bands : List Band) : Bool :=
  decide (1 ≤ bands.length) && decide (bands.length ≤ 8) && ascending bands && bands.all Machine.Band.inRange

/-- The voucher of a POST_VOUCHER body, unless a field is out of range (R43). -/
def voucherOf (body : List Word) (clock : Nat) : Option Voucher :=
  let code := bodyCode body 0
  let value := (bodyWord body 5).toNat
  let expiry := (bodyDWord body 6).toNat
  if codeIsDigits code = false ∨ expiry ≤ clock then none
  else if bodyWord body 4 = 1 then (if value = 0 then none else some ⟨code, .amount, value, expiry, false⟩)
  else if bodyWord body 4 = 2 then (if 100 < value then none else some ⟨code, .percent, value, expiry, false⟩)
  else none

/-- A number of SET_COUNTERS is refused (R131). -/
def NumberBlock.refuses (n : NumberBlock) (damaged : Bool) (given : Nat) : Bool :=
  decide (maxBase < given)
    || (!damaged && match n.next with | none => false | some m => decide (given < m))

/-- The target that an ENROL_BAY names: bays 1 to 24, 41 to 46 and 50. -/
def Taken.address (q : Taken) : Option Target := Target.ofAddress (bodyWord q.body 0).toNat

def Taken.bay (q : Taken) : Option BayIx := bayNumbered (bodyWord q.body 0).toNat

/-- The local offset of a SET_CLOCK body. -/
def Taken.offset (q : Taken) : Int := (bodyDWord q.body 2).toInt

/-- The reason, when a condition fails. -/
def failIf (b : Bool) (r : Reason) : Option Reason := if b then some r else none

/-- Step 4 of R153, by kind. -/
def State.outOfRange (s : State) (k : Kind) (q : Taken) : Option Reason :=
  match k with
  | .setSite => failIf (!Machine.SiteSettings.inRange (settingsOf q.table)) .badValue
  | .setClock => failIf (decide (q.offset < -50400) || decide (50400 < q.offset)) .badValue
  | .authorise | .stopSession | .parkBay | .returnBay => failIf q.bay.isNone .badBay
  | .enrolBay => failIf q.address.isNone .badBay
  | .postVoucher => failIf (voucherOf q.body s.xchg.clock).isNone .badValue
  | .setTariff => failIf (!tariffInRange (bandsOf q.table)) .badValue
  | .setCounters =>
    failIf (s.price.sessions.refuses s.price.damaged.session (bodyDWord q.body 0).toNat
      || s.price.receipts.refuses s.price.damaged.receipt (bodyDWord q.body 2).toNat) .badValue
  | .gridHold =>
    failIf (decide (maxWatts < (bodyDWord q.body 0).toNat) || decide ((bodyWord q.body 2).toNat < 1)
      || decide (240 < (bodyWord q.body 2).toNat)) .badValue
  | .cancel =>
    failIf (decide (47 < (bodyWord q.body 0).toNat) || decide ((bodyWord q.body 0).toNat = q.slot.val)) .badValue
  | .withdrawVoucher | .lockTariff | .unlockTariff => none

/-- A step of more than 120 s in either direction (R127). -/
def bigStep (old new : Int) : Bool := decide (120 < new - old) || decide (120 < old - new)

/-- Step 5 of R153: what the tariff lock forbids (R118, R119, R127). -/
def State.lockForbids (s : State) (k : Kind) (q : Taken) : Bool :=
  s.price.locked && match k with
    | .setSite => decide ((settingsOf q.table).idleGrace ≠ s.site.settings.idleGrace)
    | .setTariff => true
    | .setClock =>
      let clock : Int := (bodyDWord q.body 0).toNat
      bigStep s.xchg.clock clock || bigStep s.localTime (clock + q.offset)
    | .authorise | .stopSession | .parkBay | .returnBay | .enrolBay | .postVoucher | .withdrawVoucher | .lockTariff
    | .unlockTariff | .setCounters | .gridHold | .cancel => false

/-- Step 3 of R153. -/
def State.runForbids (s : State) (k : Kind) : Option Reason :=
  match s.site.run with
  | .halted => failIf (!k.inHalted) .notRunning
  | .run => failIf (decide (k = .setCounters)) .notAllowed

/-- Steps 3 to 5 of R153. -/
def State.kindRefusal (s : State) (k : Kind) (q : Taken) : Option Reason :=
  match s.runForbids k with
  | some r => some r
  | none =>
    match s.outOfRange k q with
    | some r => some r
    | none => failIf (s.lockForbids k q) .locked

/-- The checks of R153, in order: a refusal, or the kind. -/
def State.checkTaken (s : State) (q : Taken) : Reason ⊕ Kind :=
  if q.complement ≠ ~~~q.kind ∨ q.check ≠ xorWords q.body then .inl .malformed
  else match Kind.ofCode q.kind with
    | none => .inl .unknownKind
    | some k =>
      if q.malformed k then .inl .malformed
      else match s.kindRefusal k q with
        | some r => .inl r
        | none => .inr k

/-! ## Answers -/

/-- The answer of a request: through its holder place if it is held, into its slot otherwise (R154, R155). -/
def State.reply (s : State) (q : Taken) (place : Option (Fin 8)) (r : Reply) : State :=
  match place with
  | none => s.answerSlot q.slot q.ticket r
  | some p => s.answerPlace p r

/-! ## Site settings (R166) -/

def fixedOf (t : SiteSettings) : FixedFields := ⟨t.fittedOverride, t.speedOverride, t.priorityFlags⟩

/-- When FREE authority is off, every free opening pending is no (R37). -/
def State.clearFree (s : State) : State :=
  if s.freeOn then s
  else { s with sess.bays := s.sess.bays.map (fun r => { r with freePending := false }) }

/-- A changed reserve floor is tested at once, and the condition derived (R103, R101). DEDUCED (log entry 51): R166's list
names the next converter report. -/
def State.floorChanged (s : State) (old : Nat) : State :=
  if s.site.settings.reserveFloor = old then s else s.testReserve.deriveCondition

/-- A changed battery limit forms the allowances (R105). -/
def State.limitsChanged (s : State) (old : SiteSettings) : State :=
  if s.site.settings.dischargeLimit = old.dischargeLimit ∧ s.site.settings.chargeLimit = old.chargeLimit then s
  else s.formAndTrim

/-- The site restart made due by changed fixed fields (R166). -/
def State.fixedChanged (s : State) : State :=
  if fixedOf s.site.settings = s.site.inForce then s else { s with restartDue := some s.site.run }

/-- An accepted SET_SITE (R166; order of the live effects, log entry 35). -/
def State.acceptSite (s : State) (t : SiteSettings) : State :=
  let old := s.site.settings
  let limit := s.effectiveLimit
  let s1 := { s with site.settings := t, site.siteSet := true }
  ((((s1.reformLimit limit).floorChanged old.reserveFloor).limitsChanged old).clearFree).fixedChanged

def State.serveSetSite (s : State) (q : Taken) : State :=
  let t := settingsOf q.table
  if fixedOf t ≠ s.site.inForce ∧ s.site.run = .run ∧ s.sess.table.any (·.isOpen) then
    s.reply q none (.refused .sessionsOpen)
  else (s.acceptSite t).reply q none (.done .none [])

/-! ## The clock (R150, R56) -/

def State.setClock (s : State) (clock : Nat) (offset : Int) : State :=
  let s1 := { s with xchg.clock := clock, xchg.offset := offset }
  if intervalOf clock = intervalOf s.xchg.clock then s1 else s1.endInterval

def State.serveSetClock (s : State) (q : Taken) : State :=
  let clock := (bodyDWord q.body 0).toNat
  (s.setClock clock q.offset).reply q none (.done .none (showDWord clock ++ showInt q.offset))

/-! ## Bays (R34, R45, R46, R11) -/

def State.serveAuthorise (s : State) (q : Taken) (b : BayIx) : State :=
  match (s.bayOf b).state with
  | .plugged =>
    let limit := (bodyDWord q.body 9).toNat
    let r := s.tryOpen b .account (some (bodyAccount q.body 1)) none (if limit = 0 then none else some limit)
    (match r.2 with
      | .opened n => r.1.reply q none (.done .none (showDWord n))
      | .refused e => r.1.reply q none (.refused e))
  | .awaitPower | .charging | .sated | .ending => s.reply q none (.refused .bayBusy)
  | .vacant | .seeking | .unfitted | .faulted | .silent | .parked => s.reply q none (.refused .notPlugged)

def State.serveStop (s : State) (q : Taken) (place : Option (Fin 8)) (b : BayIx) : State :=
  match (s.bayOf b).state with
  | .awaitPower | .charging | .sated => s.endSession b .stoppedByRequest
  | .ending => s
  | .vacant | .plugged | .seeking | .unfitted | .faulted | .silent | .parked => s.reply q place (.refused .noSession)

def State.servePark (s : State) (q : Taken) (place : Option (Fin 8)) (b : BayIx) : State :=
  let r := s.bayOf b
  if r.state = .unfitted then s.reply q place (.refused .notAllowed)
  else if r.state = .parked then s.reply q place (.done .none [])
  else if r.parkPending then s.reply q place (.refused .bayBusy)
  else (s.setBay b { r with parkPending := true }).askPark b

def State.serveReturn (s : State) (q : Taken) (place : Option (Fin 8)) (b : BayIx) : State :=
  if (s.bayOf b).state = .parked then s.reEnrol (.bay b) else s.reply q place (.refused .notAllowed)

def State.serveEnrol (s : State) (q : Taken) (place : Option (Fin 8)) (t : Target) : State :=
  if s.isBeyond t then s.reply q place (.done .noAnswer []) else s.rollCall t

/-! ## Vouchers (R43) -/

def State.servePost (s : State) (q : Taken) (v : Voucher) : State :=
  if s.sess.vouchers.any (fun x => decide (x.code = v.code)) then s.reply q none (.refused .duplicateCode)
  else if 64 ≤ s.sess.vouchers.length then s.reply q none (.refused .tableFull)
  else ({ s with sess.vouchers := s.sess.vouchers ++ [v] } : State).reply q none (.done .none [])

def State.serveWithdraw (s : State) (q : Taken) : State :=
  let code := bodyCode q.body 0
  match s.sess.vouchers.find? (fun v => decide (v.code = code)) with
  | none => s.reply q none (.refused .noSuchCode)
  | some v =>
    if v.inUse then s.reply q none (.refused .inUse)
    else ({ s with sess.vouchers := s.sess.vouchers.filter (fun x => decide (x.code ≠ code)) } : State).reply q none
      (.done .none [])

/-! ## Store-writing requests and counters (R119, R125, R126, R131) -/

def State.serveTariff (s : State) (q : Taken) (place : Option (Fin 8)) : State :=
  s.askWrite (.tariff place (bandsOf q.table))

def State.serveLock (s : State) (place : Option (Fin 8)) : State := s.askWrite (.lock place)

def State.serveUnlock (s : State) (q : Taken) (place : Option (Fin 8)) : State :=
  if s.sess.table ≠ [] then s.reply q place (.refused .sessionsOpen) else s.askWrite (.unlock place)

/-- A queued job is a block write of a kind. -/
def StoreJob.isBlock (j : StoreJob) (k : NumberKind) : Bool :=
  match j with
  | .block k' _ => decide (k' = k)
  | .tariff _ _ => false
  | .lock _ => false
  | .unlock _ => false

/-- The block write of SET_COUNTERS takes the place of one still queued, or joins the queue behind one in progress (R131);
the same write in progress is not asked twice (R128, log entry 22). -/
def replaceBlock (k : NumberKind) (base : Nat) (active : Option ActiveWrite) (queue : List StoreJob) : List StoreJob :=
  if queue.any (fun j => j.isBlock k) then queue.map (fun j => if j.isBlock k then .block k base else j)
  else if active.any (fun a => decide (a.job = .block k base)) then queue
  else queue ++ [.block k base]

/-- One kind given its number (R131). -/
def State.giveNumber (s : State) (k : NumberKind) (n : Nat) : State :=
  let s1 := s.setNumbers k { s.numbers k with next := some n, valid := false, asked := some n }
  { s1 with price.queue := replaceBlock k n s1.price.active s1.price.queue }

/-- An accepted SET_COUNTERS (R131). DESIGN CHOICE (log entry 55): of two block writes that join the queue together, the
session base comes first. -/
def State.acceptCounters (s : State) (session receipt : Nat) : State :=
  let s1 := (s.giveNumber .session session).giveNumber .receipt receipt
  { s1 with price.damaged := { s1.price.damaged with session := false, receipt := false },
            site.countersMissing := false }

def State.serveCounters (s : State) (q : Taken) : State :=
  (s.acceptCounters (bodyDWord q.body 0).toNat (bodyDWord q.body 2).toNat).reply q none (.done .none [])

/-! ## GRID_HOLD (R87) -/

def State.serveGridHold (s : State) (q : Taken) (place : Option (Fin 8)) : State :=
  match place with
  | none => s
  | some p => s.startHold p (bodyDWord q.body 0).toNat (bodyWord q.body 2).toNat

/-! ## CANCEL (R157) -/

/-- The place of the request held for a slot with a ticket; the first, if a reused ticket gives two (log entry 10). -/
def State.placeOf (s : State) (slot : Nat) (ticket : Word) : Option (Fin 8) :=
  (s.placesWhere (fun h => decide (h.slot.val = slot) && decide (h.ticket = ticket))).head?

/-- The holder place that a store write names. -/
def StoreJob.place : StoreJob → Option (Fin 8)
  | .tariff p _ => p
  | .lock p => p
  | .unlock p => p
  | .block _ _ => none

/-- The store write of the request at a place is in progress. -/
def State.writing (s : State) (p : Fin 8) : Bool := s.price.active.any (fun a => decide (a.job.place = some p))

/-- The queued write of a withdrawn request is dropped (R128). -/
def State.dropWrite (s : State) (p : Fin 8) : State :=
  { s with price.queue := s.price.queue.filter (fun j => decide (j.place ≠ some p)) }

/-- PARK_BAY withdrawn: park pending becomes no, and the PARK is removed (R46, R21). -/
def State.withdrawParkBay (s : State) (b : BayIx) : State :=
  (s.setBay b { s.bayOf b with parkPending := false }).withdrawPark b

/-- The withdrawal by the owning unit (R157). -/
def State.withdraw (s : State) (p : Fin 8) (h : Held) : State :=
  match Kind.ofCode h.kind with
  | some .parkBay => (match bayNumbered (bodyWord h.body 0).toNat with
      | some b => s.withdrawParkBay b
      | none => s)
  | some .gridHold => s.cancelHold
  | some .setTariff | some .lockTariff | some .unlockTariff => s.dropWrite p
  | some .stopSession | some .returnBay | some .enrolBay => s
  | some .setSite | some .setClock | some .authorise | some .postVoucher | some .withdrawVoucher | some .setCounters
  | some .cancel => s
  | none => s

def State.serveCancel (s : State) (q : Taken) : State :=
  let slot := bodyWord q.body 0
  let ticket := bodyWord q.body 1
  match s.placeOf slot.toNat ticket with
  | none => s.reply q none (.refused .nothingToCancel)
  | some p =>
    match s.xchg.holder[p] with
    | none => s.reply q none (.refused .nothingToCancel)
    | some h =>
      if s.writing p then s.reply q none (.refused .nothingToCancel)
      else (((s.withdraw p h).answerPlace p (.refused .cancelled))).reply q none (.done .none [slot, ticket])

/-! ## A request handed to its owner (R154) -/

/-- A request for a bay whose number has passed the checks. -/
def State.forBay (s : State) (q : Taken) (f : BayIx → State) : State :=
  match q.bay with
  | none => s
  | some b => f b

def State.serve (s : State) (k : Kind) (q : Taken) (place : Option (Fin 8)) : State :=
  match k with
  | .setSite => s.serveSetSite q
  | .setClock => s.serveSetClock q
  | .authorise => s.forBay q (s.serveAuthorise q)
  | .stopSession => s.forBay q (s.serveStop q place)
  | .parkBay => s.forBay q (s.servePark q place)
  | .returnBay => s.forBay q (s.serveReturn q place)
  | .enrolBay => (match q.address with
      | none => s
      | some t => s.serveEnrol q place t)
  | .postVoucher => (match voucherOf q.body s.xchg.clock with
      | none => s
      | some v => s.servePost q v)
  | .withdrawVoucher => s.serveWithdraw q
  | .setTariff => s.serveTariff q place
  | .lockTariff => s.serveLock place
  | .unlockTariff => s.serveUnlock q place
  | .setCounters => s.serveCounters q
  | .gridHold => s.serveGridHold q place
  | .cancel => s.serveCancel q

/-- A taken request is checked, and refused at once or handed on (R153, R154). -/
def State.carry (s : State) (q : Taken) (place : Option (Fin 8)) : State :=
  match s.checkTaken q with
  | .inl r => s.reply q place (.refused r)
  | .inr k => s.serve k q place

/-- A slot whose kind and complement agree on a long kind (R152). -/
def Taken.isLong (q : Taken) : Bool :=
  decide (q.complement = ~~~q.kind) && match Kind.ofCode q.kind with | none => false | some k => k.isLong

/-- The slot becomes TAKEN and the last slot taken (R152, steps 2 and 3). -/
def State.markTaken (s : State) (i : Fin 48) : State :=
  { s with xchg.lastSlot := i }.writeWords (slotBase i) [slotTaken]

/-- The visit of a FILLED slot (R152): deferred, or taken and carried out. -/
def State.takeSlot (s : State) (i : Fin 48) : State :=
  let q := s.takenAt i
  if q.isLong then
    match s.freePlace with
    | none => s
    | some p => ((s.markTaken i).setPlace p (some ⟨i, q.ticket, q.kind, q.body⟩)).carry q (some p)
  else (s.markTaken i).carry q none

/-- The visit of a slot (R151, R152). -/
def State.visitSlot (s : State) (i : Fin 48) : State :=
  if s.mem.word (slotBase i) = slotFilled then s.takeSlot i else s

/-- The host fills a slot, the state word FILLED among the words (section 9.4). -/
def State.fillSlot (s : State) (i : Fin 48) (k : Kind) (ticket : Word) (body : List Word) : State :=
  s.writeWords (slotBase i) (requestWords k ticket body)

end Sys2Proof.Machine
end

