-- ==== Sys2Proof/Machine/Restart.lean ====
section
/-!
DEFINITION. The nonvolatile store's completions (R128), RUN (R165), site restart (R167), power-on reset (R164) and RESET
going low.
-/
namespace Sys2Proof.Machine

/-! ## Store completions (R119, R125, R126, R128, R129) -/

/-- The stored item of a job after its write (section 7.7). -/
def StoreImage.written (nv : StoreImage) (a : ActiveWrite) : StoreImage :=
  match a.job with
  | .tariff _ _ | .lock _ | .unlock _ => { nv with tariff := a.item, tariffDamaged := false }
  | .block .session base => { nv with session := base, sessionDamaged := false }
  | .block .receipt base => { nv with receipt := base, receiptDamaged := false }

/-- The stored item of a job damaged. -/
def StoreImage.damagedBy (nv : StoreImage) (a : ActiveWrite) : StoreImage :=
  match a.job with
  | .tariff _ _ | .lock _ | .unlock _ => { nv with tariffDamaged := true }
  | .block .session _ => { nv with sessionDamaged := true }
  | .block .receipt _ => { nv with receiptDamaged := true }

/-- A block write has passed (R129): its base is in force and the block valid when it is the one last asked for its kind;
a receipt block starts a composition attempt. -/
def State.blockPassed (s : State) (k : NumberKind) (base : Nat) : State :=
  let nb := s.numbers k
  let s1 := if nb.asked = some base then s.setNumbers k { nb with base := base, valid := true } else s
  match k with
  | .session => s1
  | .receipt => s1.compose

/-- The written content takes effect, and the request is answered (R119, R125, R126, R129). -/
def State.writePassed (s : State) (a : ActiveWrite) : State :=
  match a.job with
  | .tariff place _ =>
    let s1 := { s with price.bands := a.item.bands, price.generation := a.item.generation }
    (s1.answerWrite place (.done .none (dwordWords a.item.generation))).askPage
  | .lock place =>
    let s1 := { s with price.locked := true, price.lockCount := a.item.lockCount }
    (s1.answerWrite place (.done .none (dwordWords a.item.lockCount))).askPage
  | .unlock place =>
    let s1 := { s with price.bands := [], price.generation := a.item.generation, price.locked := false,
                       price.lockCount := a.item.lockCount, price.unlockPending := false }
    (s1.answerWrite place (.done .none (dwordWords a.item.lockCount))).askPage
  | .block k base => s.blockPassed k base

/-- A failed write (R119, R125, R126, R128): STORE attention, STORE_FAILED, and no unlock pending. -/
def State.writeFailed (s : State) (a : ActiveWrite) : State :=
  match a.job with
  | .tariff place _ => (s.answerWrite place (.refused .storeFailed)).raise .store
  | .lock place => (s.answerWrite place (.refused .storeFailed)).raise .store
  | .unlock place =>
    (({ s with price.unlockPending := false } : State).answerWrite place (.refused .storeFailed)).raise .store
  | .block _ _ => s.raise .store

/-- A store write completes (R128). The next queued write begins when the command ends (log entry 4). -/
def State.writeCompletes (s : State) (r : StoreResult) : State :=
  match s.price.active with
  | none => s
  | some a =>
    match r with
    | .passed =>
      ({ s with price.active := none, price.lastWrite := .passed, nv := s.nv.written a } : State).writePassed a
    | .failed damages =>
      ({ s with price.active := none, price.lastWrite := .failed,
                nv := if damages then s.nv.damagedBy a else s.nv } : State).writeFailed a

/-- A write in progress is cut off: its item is damaged at the load that follows (R164, R128). -/
def State.cutWrite (s : State) : State :=
  match s.price.active with
  | none => s
  | some a => { s with price.active := none, nv := s.nv.damagedBy a }

/-! ## RUN (R165) -/

/-- The refusal of a RUN, by the first test that fails. -/
def State.runTest (s : State) : RunRefusal :=
  if s.strapError then .strapError
  else if s.site.countersMissing then .storeDamaged
  else if s.site.siteSet then .none
  else .noSite

/-- The steps on entering RUN. -/
def State.enterRun (s : State) : State :=
  let s1 := ({ s with site.run := .run, site.lastRefusal := .none } : State).queueBroadcast
  ({ s1 with allot.blindTimer := decide (s1.meter.state = .blind) || s1.allot.blindTimer } : State).askPage

/-- A write of RUN to SITE_CTL. -/
def State.commandRun (s : State) : State :=
  match s.site.run with
  | .run => s
  | .halted =>
    match s.runTest with
    | .none => s.enterRun
    | .strapError => { s with site.lastRefusal := .strapError }
    | .noSite => { s with site.lastRefusal := .noSite }
    | .storeDamaged => { s with site.lastRefusal := .storeDamaged }

/-! ## Site restart (R167) -/

/-- Step 1: the fixed fields then in force. -/
def State.takeFixed (s : State) : State := { s with site.inForce := fixedOf s.site.settings }

/-- A store write no longer belongs to a request. -/
def StoreJob.released : StoreJob → StoreJob
  | .tariff _ bands => .tariff none bands
  | .lock _ => .lock none
  | .unlock _ => .unlock none
  | .block k base => .block k base

/-- A store write asked for a number block. -/
def StoreJob.isNumber : StoreJob → Bool
  | .block _ _ => true
  | .tariff _ _ => false
  | .lock _ => false
  | .unlock _ => false

/-- Step 2: every held request is answered ABORTED, and queued writes of requests are dropped; one in progress runs on
(R128, R162). -/
def State.abortHeld (s : State) : State :=
  let s1 := State.answerPlaces (.refused .aborted) (List.finRange 8) s
  { s1 with price.queue := s1.price.queue.filter (·.isNumber),
            price.active := s1.price.active.map (fun a => { a with job := a.job.released }) }

/-- The state a bay takes at site restart (R25, R47). -/
def State.restartState (s : State) (b : BayIx) : BayState := if s.isFitted b then .seeking else .unfitted

/-- One OPEN session closed by the restart (R47, step 1): R71 without a round, then the close. -/
def State.restartClose (s : State) (b : BayIx) : State :=
  let s1 := if (s.bayOf b).state = .ending then s else s.recordCause b .siteRestart
  (s1.allotLeave b).closeSession b (s.restartState b)

/-- Every OPEN session, in session-number order (log entry 17). -/
def State.restartCloses : List BayIx → State → State
  | [], s => s
  | b :: bs, s => State.restartCloses bs (s.restartClose b)

/-- The bays of the OPEN sessions in the table's order. -/
def State.openBays (s : State) : List BayIx := (s.sess.table.filter (·.isOpen)).map (·.bay)

/-- Steps 2 to 4 of R47 for one bay, with the site-restart values of section 2.1. -/
def State.renewBay (s : State) (b : BayIx) : State :=
  let s1 := s.setBayState b (s.restartState b)
  s1.setBay b { s1.bayOf b with latch := .release, session := none, power := 0, lowStart := none, highCount := 0,
                                wrongCodes := [], cooldown := none, parkPending := false, freePending := false }

def State.renewBays : List BayIx → State → State
  | [], s => s
  | b :: bs, s => State.renewBays bs (s.renewBay b)

/-- Step 3 (R47). -/
def State.restartSessions (s : State) : State := State.renewBays (List.finRange 24) (State.restartCloses s.openBays s)

/-- Step 4 (R85, R99). The blind timer runs on when the restart ends in RUN. -/
def State.restartAllot (s : State) (ending : RunState) : State :=
  let u := s.allot
  ({ s with allot := { AllotUnit.reset with
      blindBudget := match s.meter.state with | .blind => 0 | .live => u.blindBudget,
      blindTimer := u.blindTimer && decide (ending = .run) } } : State).restartHold

/-- The fit of a record by the fitted count (section 1.3). -/
def fitOf (fitted : Nat) (t : Fin 31) : Fit := if t.val < 24 ∧ fitted ≤ t.val then .beyond else .isIn

/-- The site-restart values of a record (section 1.3): serial, class, rating and energy reading are kept. -/
def ModuleRec.restarted (r : ModuleRec) (fit : Fit) : ModuleRec :=
  { ModuleRec.reset fit with serial := r.serial, cls := r.cls, rating := r.rating, energy := r.energy }

/-- A frame on the line is sent to its end; an answer is not awaited (R23). -/
def Bus.restarted : Bus → Bus
  | .sending _ => .abandoned
  | .abandoned => .abandoned
  | .idle => .idle
  | .awaiting _ => .idle
  | .window => .idle

/-- Step 5 (R23). -/
def State.restartLink (s : State) : State :=
  { s with link.urgent := [], link.ordinary := [], link.cycleStart := none, link.bus := s.link.bus.restarted,
           link.recs := Vector.ofFn (fun i => ModuleRec.restarted s.link.recs[i] (fitOf s.fitted i)) }

/-- Step 6 (R114, R167). DESIGN CHOICE (log entry 45): the grid-forming flag, which neither rule names, is kept. -/
def State.restartStore (s : State) : State :=
  ({ s with store.link := .none, store.holdMissed := false, store.topUp := false,
            store.strings := s.store.strings.map (fun u => { u with link := .none, output := none }) } : State).deriveCondition

/-- Step 8: the ending state, and with RUN the broadcast (R5). Step 9 asks for a rewrite. -/
def State.restartEnds (s : State) (ending : RunState) : State :=
  let s1 := { s with site.run := ending }
  (match ending with
    | .halted => s1
    | .run => s1.queueBroadcast).askPage

/-- A site restart of all units, taken whole (R167). -/
def State.siteRestart (s : State) (ending : RunState) : State :=
  let s1 := s.takeFixed.abortHeld.restartSessions
  ((s1.restartAllot ending).restartLink.restartStore).restartEnds ending

/-- The restart that an accepted SET_SITE has made due (R166). -/
def State.dueRestart (s : State) : State :=
  match s.restartDue with
  | none => s
  | some ending => ({ s with restartDue := none } : State).siteRestart ending

/-! ## Power-on reset (R164) -/

/-- One number kind loaded (R132). DESIGN CHOICE (log entry 48): the base in force of a damaged kind is 0 until
SET_COUNTERS gives one. -/
def State.loadNumbers (s : State) (k : NumberKind) (base : Nat) (damaged : Bool) : State :=
  if damaged then s.setNumbers k ⟨none, 0, false, none⟩
  else (s.setNumbers k ⟨some (base + 64), base, false, none⟩).askBlock k (base + 64)

/-- The load of the store (R132). DESIGN CHOICE (log entry 55): the block write of the session base is asked first. -/
def State.loadStore (s : State) : State :=
  let nv := s.nv
  let t : TariffItem := if nv.tariffDamaged then ⟨[], 0, false, 0⟩ else nv.tariff
  let p : PricingUnit :=
    { PricingUnit.reset with
      bands := t.bands, generation := t.generation, locked := t.locked, lockCount := t.lockCount, queue := [],
      damaged := ⟨nv.tariffDamaged, nv.sessionDamaged, nv.receiptDamaged⟩ }
  let s1 := { s with price := p }
  let s2 := (s1.loadNumbers .session nv.session nv.sessionDamaged).loadNumbers .receipt nv.receipt nv.receiptDamaged
  let s3 := { s2 with site.countersMissing := nv.sessionDamaged || nv.receiptDamaged }
  if nv.tariffDamaged || nv.sessionDamaged || nv.receiptDamaged then s3.raise .store else s3

/-- The units' power-on values for straps and a HOLD_IN level (R164, steps 1 to 4), with the store and the waiting
commands as they were. The line source takes HOLD_IN (R99, log entry 24). -/
def powerValues (straps : Straps) (holdIn : Bool) (nv : StoreImage) (pending : List Instr) : State :=
  let fitted := fittedCount straps 0
  let active := lineActive straps.holdpol holdIn
  { State.reset with
    link := { BayLink.reset with recs := Vector.ofFn (fun i => ModuleRec.reset (fitOf fitted i)) },
    sess := { SessionUnit.reset with
      bays := Vector.ofFn (fun b => BayRec.reset (if b.val + 1 ≤ fitted then .seeking else .unfitted)) },
    hold := { HoldController.reset with lineActive := active, state := if active then .requested else .clear,
                                        deadline := if active then some 60 else none },
    site := { SiteUnit.reset with straps := straps, holdIn := holdIn },
    nv := nv, pending := pending }

/-- Power-on reset: a write in progress is cut off, the units take their values, the store is loaded. The first page
rewrite and the first block write begin as it ends. -/
def State.powerOn (s : State) (straps : Straps) (holdIn : Bool) : State :=
  let cut := s.cutWrite
  (powerValues straps holdIn cut.nv cut.pending).loadStore

/-- RESET is driven low (R164). -/
def State.resetLow (s : State) : State := { s.cutWrite with inReset := true, xchg.timersOn := false }

/-! ## What ends every command (log entry 4) -/

/-- The rounds asked, then the store write that may begin. -/
def State.settleUnits (s : State) : State := s.runRounds.serveStore

/-- The rounds, the store and the page writer. -/
def State.settle (s : State) : State := s.settleUnits.servePage

/-- An event outside reset (R164: a part in reset takes nothing, log entry 6). -/
def State.live (s : State) (f : State → State) : State := if s.inReset then s else (f s).settle

end Sys2Proof.Machine
end

