-- ==== Sys2Proof/Machine/BusCommands.lean ====
section
/-!
DEFINITION. The meanings of the bay bus rows: BUS_FREE_TAKE_FRAME, FRAME_SENT, ANSWER_RECEIVED, ANSWER_TIMEOUT,
ANSWER_ABORTED, STRAY_BYTES, BROADCAST_WINDOW_END and SCHEDULER_CYCLE.
-/
namespace Sys2Proof.Machine

/-- R18. -/
def execBusFreeTakeFrame (s : State) : Host.Outcome State Fault Refusal := .next (s.live State.takeFrame)

/-- R2. -/
def execFrameSent (s : State) : Host.Outcome State Fault Refusal := .next (s.live State.frameLeaves)

/-- R3. -/
def execAnswerReceived (answer : AnswerFrame) (s : State) : Host.Outcome State Fault Refusal :=
  .next (s.live (fun t => t.takeAnswer answer))

/-- R2. -/
def execAnswerTimeout (s : State) : Host.Outcome State Fault Refusal := .next (s.live State.answerTimesOut)

/-- R3. -/
def execAnswerAborted (s : State) : Host.Outcome State Fault Refusal := .next (s.live State.answerBreaks)

/-- A run of bytes without an exchange counts as one frame error (R3). -/
def State.countStray (s : State) : State := { s with link.frameErrors := s.link.frameErrors + 1 }

/-- R3. -/
def execStrayBytes (s : State) : Host.Outcome State Fault Refusal := .next (s.live State.countStray)

/-- R5. -/
def execBroadcastWindowEnd (s : State) : Host.Outcome State Fault Refusal := .next (s.live State.windowEnds)

/-- R19. -/
def execSchedulerCycle (s : State) : Host.Outcome State Fault Refusal := .next (s.live State.startCycle)

end Sys2Proof.Machine
end

