-- ==== Sys2Proof/Machine/MeterCommands.lean ====
section
/-!
DEFINITION. The meanings of SAMPLE_RECEIVED, SAMPLE_ABORT, METER_LOST, BLIND_TIMER, INTERVAL_END, HOLD_LINE_CHANGE,
HOLD_DEADLINE, HOLD_REQUEST_END and RETURN_TIMER.
-/
namespace Sys2Proof.Machine

/-- One byte of the meter line (R49), and the sample that it completes (R50). What the sample asks of the other units is
served before the next byte. -/
def State.takeByte (s : State) (b : MeterByte) : State :=
  let r := s.meter.receiver.take b
  let s1 := { s with meter.receiver := r.1 }
  match r.2 with
  | none => s1
  | some p => (s1.takeSample (sampleOfBytes p)).settleUnits

/-- Bytes of the meter line, in order. -/
def State.takeBytes : List MeterByte → State → State
  | [], s => s
  | b :: bs, s => State.takeBytes bs (s.takeByte b)

/-- R49, R50: the bytes that have come on the meter line (log entry 41). -/
def execSampleReceived (bytes : List MeterByte) (s : State) : Host.Outcome State Fault Refusal :=
  .next (s.live (State.takeBytes bytes))

/-- A sample aborted: the receiver waits again (R49). -/
def State.abortSample (s : State) : State := { s with meter.receiver := .waiting }

/-- R49: an idle of more than two character times inside a sample. -/
def execSampleAbort (s : State) : Host.Outcome State Fault Refusal := .next (s.live State.abortSample)

/-- R53. -/
def execMeterLost (s : State) : Host.Outcome State Fault Refusal := .next (s.live State.loseMeter)

/-- R82. -/
def execBlindTimer (s : State) : Host.Outcome State Fault Refusal := .next (s.live State.blindTick)

/-- R56. -/
def execIntervalEnd (s : State) : Host.Outcome State Fault Refusal := .next (s.live State.intervalTick)

/-- R86. -/
def execHoldLineChange (level : Bool) (s : State) : Host.Outcome State Fault Refusal :=
  .next (s.live (fun t => t.holdLine level))

/-- R90. -/
def execHoldDeadline (s : State) : Host.Outcome State Fault Refusal := .next (s.live State.holdDeadlinePasses)

/-- R87. -/
def execHoldRequestEnd (s : State) : Host.Outcome State Fault Refusal := .next (s.live State.holdExpires)

/-- R97. -/
def execReturnTimer (s : State) : Host.Outcome State Fault Refusal := .next (s.live State.returnRunsOut)

end Sys2Proof.Machine
end

