-- ==== Sys2Proof/Machine/RegisterCommands.lean ====
section
/-!
DEFINITION. The meanings of ATTN_READ, ATTN_MASK_WRITE and REGISTER_WRITE_NO_EFFECT (sections 9.2 and 9.8).
-/
namespace Sys2Proof.Machine

/-- A read of ATTN returns the bits and clears every bit it returned (R158). -/
def State.readAttn (s : State) : State := { s with spiData := s.xchg.attn, xchg.attn := 0 }

/-- R158. While RESET is low the read returns 0 and changes nothing else (R164). -/
def execAttnRead (s : State) : Host.Outcome State Fault Refusal :=
  if s.inReset then .next { s with spiData := 0 } else .next (s.live State.readAttn)

/-- A write to ATTN_MASK: positions without an attention bit read as 0 (R148). -/
def State.writeMask (s : State) (value : Word) : State := { s with xchg.mask := value &&& attnBits }

/-- R158. -/
def execAttnMaskWrite (value : Word) (s : State) : Host.Outcome State Fault Refusal :=
  .next (s.live (fun t => t.writeMask value))

/-- R148, R149: no effect, whichever register and value. -/
def execRegisterWriteNoEffect (_write : InertWrite) (s : State) : Host.Outcome State Fault Refusal :=
  .next (s.live (fun t => t))

end Sys2Proof.Machine
end

