-- ==== Sys2Proof/Machine/Sweep.lean ====
section
/-!
DEFINITION. Sweeps (R151) with what may arrive between two slot visits (R147, R149; log entry 27), and the delivery of one
request into its slot (log entry 1).
-/
namespace Sys2Proof.Machine

/-- A command written to SITE_CTL during a sweep. -/
inductive SiteCommand where
  | run | restart
  deriving DecidableEq, Repr

/-- The slots of a sweep with their visit numbers: from the slot after the last slot taken round to that slot itself. -/
def sweepOrder (last : Fin 48) : List (Nat × Fin 48) :=
  (List.finRange 48).map (fun i => (i.val, last + 1 + i))

/-- What arrives before a visit, in order; a SITE_CTL command ends the sweep, and what would follow it does not arrive
in this sweep. -/
def State.arrive : List SweepEvent → State → State × Option SiteCommand
  | [], s => (s, none)
  | e :: es, s =>
    match e with
    | .words ws => State.arrive es (s.hostWords ws)
    | .ask => State.arrive es { s with xchg.wakePending := true }
    | .run => (s, some .run)
    | .restart => (s, some .restart)

/-- The events of a visit. -/
def eventsAt (arrivals : List SweepArrival) (visit : Nat) : List SweepEvent :=
  (arrivals.filter (fun a => decide (a.visit = visit))).map (·.event)

/-- The visits of a sweep (R151, step 3): ended early by a SITE_CTL command, or by a site restart made due. -/
def State.sweepSlots (arrivals : List SweepArrival) : List (Nat × Fin 48) → State → State × Option SiteCommand
  | [], s => (s, none)
  | v :: vs, s =>
    let a := State.arrive (eventsAt arrivals v.1) s
    match a.2 with
    | some c => (a.1, some c)
    | none =>
      let s1 := (a.1.visitSlot v.2).settleUnits
      if s1.restartDue.isSome then (s1, none) else State.sweepSlots arrivals vs s1

/-- One sweep: the read mark and the write indexes, then the slots. -/
def State.sweepOnce (s : State) (arrivals : List SweepArrival) : State × Option SiteCommand :=
  let s1 := s.sweepReceipts.settleUnits
  State.sweepSlots arrivals (sweepOrder s1.xchg.lastSlot) s1

/-- The SITE_CTL command that ended a sweep is taken (R149). -/
def State.takeCommand (s : State) (c : Option SiteCommand) : State :=
  match c with
  | none => s
  | some .run => s.commandRun
  | some .restart => s.siteRestart .halted

/-- A sweep that was asked for while the last one ran starts at once (R151). With a restart due it waits for it. -/
def State.followSweep (s : State) : State :=
  if s.xchg.wakePending ∧ s.restartDue = none then
    (({ s with xchg.wakePending := false } : State).sweepOnce []).1
  else s

/-- A sweep asked for (R151): it starts at once when the unit is idle, and sets the wake-pending mark otherwise. DEDUCED (log
entry 53): a site restart that an accepted SET_SITE has made due comes first (R167), so the mark is set then too. -/
def State.askSweep (s : State) (arrivals : List SweepArrival) : State :=
  match s.xchg.sweeping, s.restartDue with
  | none, none =>
    let r := s.sweepOnce arrivals
    (r.1.takeCommand r.2).followSweep
  | some _, _ | none, some _ => { s with xchg.wakePending := true }

/-- One request: the host fills the slot and the part visits it (log entry 1). -/
def State.deliver (s : State) (slot : Fin 48) (k : Kind) (ticket : Word) (body : List Word) : State :=
  (s.fillSlot slot k ticket body).visitSlot slot

end Sys2Proof.Machine
end

