-- ==== Sys2Proof/Machine/RequestCommands.lean ====
section
/-!
DEFINITION. The meanings of the fifteen request rows: the host fills the slot with the request's words (R170) and the part
visits it (R152 to R154; log entry 1).
-/
namespace Sys2Proof.Machine

/-! ## The bodies of R170 -/

def bodySetClock (clock offset : DWord) : List Word := dwordWords clock ++ dwordWords offset

def bodyAuthorise (bay : Word) (account : BitVec 128) (limit : DWord) : List Word :=
  bay :: (fieldWords 8 account ++ dwordWords limit)

def bodyPost (code : BitVec 64) (kind value : Word) (expiry : DWord) : List Word :=
  fieldWords 4 code ++ [kind, value] ++ dwordWords expiry

def bodyWithdraw (code : BitVec 64) : List Word := fieldWords 4 code

def bodyCounters (session receipt : DWord) : List Word := dwordWords session ++ dwordWords receipt

def bodyHold (limit : DWord) (minutes : Word) : List Word := dwordWords limit ++ [minutes]

/-- The table of SET_SITE, 27 words. -/
def siteTable (t : SiteSettings) : List Word := sealTable (settingsWords t)

/-- The table of SET_TARIFF, 2 + 5 × count words. -/
def tariffTable (bands : List Band) : List Word := sealTable (bandsWords bands)

/-- A request whose table the host has written at an offset; the length given is the whole table's (R170; log entry 9). -/
def State.deliverTable (s : State) (slot : Fin 48) (k : Kind) (ticket offset : Word) (table : List Word) : State :=
  (s.hostTable offset table).deliver slot k ticket [offset, natWord table.length]

/-! ## Meanings -/

/-- R166. -/
def execSetSite (slot : Fin 48) (ticket offset : Word) (settings : SiteSettings) (s : State) :
    Host.Outcome State Fault Refusal :=
  .next (s.live (fun t => t.deliverTable slot .setSite ticket offset (siteTable settings)))

/-- R150. -/
def execSetClock (slot : Fin 48) (ticket : Word) (clock offset : DWord) (s : State) : Host.Outcome State Fault Refusal :=
  .next (s.live (fun t => t.deliver slot .setClock ticket (bodySetClock clock offset)))

/-- R34. -/
def execAuthorise (slot : Fin 48) (ticket bay : Word) (account : BitVec 128) (limit : DWord) (s : State) :
    Host.Outcome State Fault Refusal :=
  .next (s.live (fun t => t.deliver slot .authorise ticket (bodyAuthorise bay account limit)))

/-- R45. -/
def execStopSession (slot : Fin 48) (ticket bay : Word) (s : State) : Host.Outcome State Fault Refusal :=
  .next (s.live (fun t => t.deliver slot .stopSession ticket [bay]))

/-- R46. -/
def execParkBay (slot : Fin 48) (ticket bay : Word) (s : State) : Host.Outcome State Fault Refusal :=
  .next (s.live (fun t => t.deliver slot .parkBay ticket [bay]))

/-- R46. -/
def execReturnBay (slot : Fin 48) (ticket bay : Word) (s : State) : Host.Outcome State Fault Refusal :=
  .next (s.live (fun t => t.deliver slot .returnBay ticket [bay]))

/-- R11. -/
def execEnrolBay (slot : Fin 48) (ticket address : Word) (s : State) : Host.Outcome State Fault Refusal :=
  .next (s.live (fun t => t.deliver slot .enrolBay ticket [address]))

/-- R43. -/
def execPostVoucher (slot : Fin 48) (ticket : Word) (code : BitVec 64) (kind value : Word) (expiry : DWord) (s : State) :
    Host.Outcome State Fault Refusal :=
  .next (s.live (fun t => t.deliver slot .postVoucher ticket (bodyPost code kind value expiry)))

/-- R43. -/
def execWithdrawVoucher (slot : Fin 48) (ticket : Word) (code : BitVec 64) (s : State) :
    Host.Outcome State Fault Refusal :=
  .next (s.live (fun t => t.deliver slot .withdrawVoucher ticket (bodyWithdraw code)))

/-- R119. -/
def execSetTariff (slot : Fin 48) (ticket offset : Word) (bands : List Band) (s : State) :
    Host.Outcome State Fault Refusal :=
  .next (s.live (fun t => t.deliverTable slot .setTariff ticket offset (tariffTable bands)))

/-- R125. -/
def execLockTariff (slot : Fin 48) (ticket : Word) (s : State) : Host.Outcome State Fault Refusal :=
  .next (s.live (fun t => t.deliver slot .lockTariff ticket []))

/-- R126. -/
def execUnlockTariff (slot : Fin 48) (ticket : Word) (s : State) : Host.Outcome State Fault Refusal :=
  .next (s.live (fun t => t.deliver slot .unlockTariff ticket []))

/-- R131. -/
def execSetCounters (slot : Fin 48) (ticket : Word) (session receipt : DWord) (s : State) :
    Host.Outcome State Fault Refusal :=
  .next (s.live (fun t => t.deliver slot .setCounters ticket (bodyCounters session receipt)))

/-- R87. -/
def execGridHold (slot : Fin 48) (ticket : Word) (limit : DWord) (minutes : Word) (s : State) :
    Host.Outcome State Fault Refusal :=
  .next (s.live (fun t => t.deliver slot .gridHold ticket (bodyHold limit minutes)))

/-- R157. -/
def execCancel (slot : Fin 48) (ticket named namedTicket : Word) (s : State) : Host.Outcome State Fault Refusal :=
  .next (s.live (fun t => t.deliver slot .cancel ticket [named, namedTicket]))

end Sys2Proof.Machine
end

