-- ==== Sys2Proof/Machine/SiteCommands.lean ====
section
/-!
DEFINITION. The meanings of POWER_ON_RESET, RUN, RESTART, SET_SITE_RESTART, WAKE, SWEEP_TIMER, RESET_DRIVEN_LOW and
SITE_CLOCK_ADVANCE.
-/
namespace Sys2Proof.Machine

/-- R164. -/
def execPowerOnReset (straps : Straps) (holdIn : Bool) (s : State) : Host.Outcome State Fault Refusal :=
  .next (s.powerOn straps holdIn).settle

/-- R165. -/
def execRun (s : State) : Host.Outcome State Fault Refusal := .next (s.live State.commandRun)

/-- R167, ending in HALTED. -/
def execRestart (s : State) : Host.Outcome State Fault Refusal := .next (s.live (fun t => t.siteRestart .halted))

/-- R166: the restart that follows an accepted SET_SITE; a sweep asked for meanwhile starts after it (R151). -/
def execSetSiteRestart (s : State) : Host.Outcome State Fault Refusal := .next (s.live (fun t => t.dueRestart.followSweep))

/-- R151: the host words, then a sweep. The value written to WAKE is not used (R148). -/
def execWake (_value : Word) (writes : List HostWrite) (arrivals : List SweepArrival) (s : State) :
    Host.Outcome State Fault Refusal :=
  .next (s.live (fun t => (t.hostWords writes).askSweep arrivals))

/-- An expiry of the sweep timer, when it runs (R151). -/
def State.timerSweep (s : State) (arrivals : List SweepArrival) : State :=
  if s.xchg.timersOn then s.askSweep arrivals else s

/-- R151: the host words that came before, then a sweep. -/
def execSweepTimer (writes : List HostWrite) (arrivals : List SweepArrival) (s : State) :
    Host.Outcome State Fault Refusal :=
  .next (s.live (fun t => (t.hostWords writes).timerSweep arrivals))

/-- R164: RESET goes low. -/
def execResetDrivenLow (s : State) : Host.Outcome State Fault Refusal := .next s.resetLow

/-- One second: the site clock advances and stops at its greatest value (R150); elapsed time goes on (log entry 2). -/
def State.tickClock (s : State) : State :=
  { s with xchg.clock := min 4294967295 (s.xchg.clock + 1), elapsed := s.elapsed + 1 }

/-- R150. -/
def execSiteClockAdvance (s : State) : Host.Outcome State Fault Refusal := .next (s.live State.tickClock)

end Sys2Proof.Machine
end

