-- ==== Sys2Proof/Machine/TimerCommands.lean ====
section
/-!
DEFINITION. The meanings of COOLDOWN_END, VOUCHER_EXPIRY_CHECK, STORE_WRITE_COMPLETE, LINGER_TIMER, PAGE_TIMER and
PAGE_REWRITE_END.
-/
namespace Sys2Proof.Machine

/-- The cooldown end passes (R36). -/
def State.endCooldown (s : State) (b : BayIx) : State :=
  match (s.bayOf b).cooldown with
  | none => s
  | some t =>
    if t ≤ s.xchg.clock then
      let s1 := s.setBay b { s.bayOf b with cooldown := none }
      if (s1.bayOf b).state = .plugged then s1.queueShow b .enterCode else s1
    else s

/-- R36. -/
def execCooldownEnd (bay : BayIx) (s : State) : Host.Outcome State Fault Refusal :=
  .next (s.live (fun t => t.endCooldown bay))

/-- An ISSUED voucher whose expiry is not later than the site clock (R44). -/
def Voucher.expired (v : Voucher) (clock : Nat) : Bool := !v.inUse && decide (v.expiry ≤ clock)

/-- The minute expiry check (R44). -/
def State.expireVouchers (s : State) : State :=
  { s with sess.vouchers := s.sess.vouchers.filter (fun v => !v.expired s.xchg.clock) }

/-- R44. -/
def execVoucherExpiryCheck (s : State) : Host.Outcome State Fault Refusal := .next (s.live State.expireVouchers)

/-- R128. -/
def execStoreWriteComplete (result : StoreResult) (s : State) : Host.Outcome State Fault Refusal :=
  .next (s.live (fun t => t.writeCompletes result))

/-- The linger timer expires: it stops, and RECEIPT is raised for unread receipts (R144). DESIGN CHOICE (log entry 49): a
timer that ran before the linger became 0 runs on. -/
def State.lingerExpires (s : State) : State :=
  match s.rcpt.linger with
  | none => s
  | some t =>
    if t ≤ s.elapsed then
      let s1 := { s with rcpt.linger := none }
      if 0 < s1.unreadCount then s1.raise .receipt else s1
    else s

/-- R144. -/
def execLingerTimer (s : State) : Host.Outcome State Fault Refusal := .next (s.live State.lingerExpires)

/-- 1 s has passed since the last rewrite began (R159). DESIGN CHOICE (log entry 5): at State.reset, where no rewrite has
begun yet, it counts as passed. -/
def State.pageOld (s : State) : Bool :=
  match s.xchg.rewriteBegan with
  | none => true
  | some t => decide (t + 1 ≤ s.elapsed)

/-- The page timer asks for a rewrite, when it runs (R159). -/
def State.pageTick (s : State) : State := if s.xchg.timersOn ∧ s.pageOld then s.askPage else s

/-- R159. -/
def execPageTimer (s : State) : Host.Outcome State Fault Refusal := .next (s.live State.pageTick)

/-- R160. -/
def execPageRewriteEnd (s : State) : Host.Outcome State Fault Refusal := .next (s.live State.endRewrite)

end Sys2Proof.Machine
end

