-- ==== Sys2Proof/Machine/Dispatch.lean ====
section
/-! DEFINITION. The dispatch: one arm for each command. -/
namespace Sys2Proof.Machine

/-- The effect of a command on everything but the queue. -/
def exec (i : Instr) (s : State) : Host.Outcome State Fault Refusal :=
  match i with
  | .powerOnReset straps holdIn => Sys2Proof.Machine.execPowerOnReset straps holdIn s
  | .run => Sys2Proof.Machine.execRun s
  | .restart => Sys2Proof.Machine.execRestart s
  | .setSiteRestart => Sys2Proof.Machine.execSetSiteRestart s
  | .wake value writes arrivals => Sys2Proof.Machine.execWake value writes arrivals s
  | .sweepTimer writes arrivals => Sys2Proof.Machine.execSweepTimer writes arrivals s
  | .setSite slot ticket offset settings => Sys2Proof.Machine.execSetSite slot ticket offset settings s
  | .setClock slot ticket clock offset => Sys2Proof.Machine.execSetClock slot ticket clock offset s
  | .authorise slot ticket bay account limit => Sys2Proof.Machine.execAuthorise slot ticket bay account limit s
  | .stopSession slot ticket bay => Sys2Proof.Machine.execStopSession slot ticket bay s
  | .parkBay slot ticket bay => Sys2Proof.Machine.execParkBay slot ticket bay s
  | .returnBay slot ticket bay => Sys2Proof.Machine.execReturnBay slot ticket bay s
  | .enrolBay slot ticket address => Sys2Proof.Machine.execEnrolBay slot ticket address s
  | .postVoucher slot ticket code kind value expiry => Sys2Proof.Machine.execPostVoucher slot ticket code kind value expiry s
  | .withdrawVoucher slot ticket code => Sys2Proof.Machine.execWithdrawVoucher slot ticket code s
  | .setTariff slot ticket offset bands => Sys2Proof.Machine.execSetTariff slot ticket offset bands s
  | .lockTariff slot ticket => Sys2Proof.Machine.execLockTariff slot ticket s
  | .unlockTariff slot ticket => Sys2Proof.Machine.execUnlockTariff slot ticket s
  | .setCounters slot ticket session receipt => Sys2Proof.Machine.execSetCounters slot ticket session receipt s
  | .gridHold slot ticket limit minutes => Sys2Proof.Machine.execGridHold slot ticket limit minutes s
  | .cancel slot ticket named namedTicket => Sys2Proof.Machine.execCancel slot ticket named namedTicket s
  | .attnRead => Sys2Proof.Machine.execAttnRead s
  | .attnMaskWrite value => Sys2Proof.Machine.execAttnMaskWrite value s
  | .registerWriteNoEffect write => Sys2Proof.Machine.execRegisterWriteNoEffect write s
  | .busFreeTakeFrame => Sys2Proof.Machine.execBusFreeTakeFrame s
  | .frameSent => Sys2Proof.Machine.execFrameSent s
  | .answerReceived answer => Sys2Proof.Machine.execAnswerReceived answer s
  | .answerTimeout => Sys2Proof.Machine.execAnswerTimeout s
  | .answerAborted => Sys2Proof.Machine.execAnswerAborted s
  | .strayBytes => Sys2Proof.Machine.execStrayBytes s
  | .broadcastWindowEnd => Sys2Proof.Machine.execBroadcastWindowEnd s
  | .schedulerCycle => Sys2Proof.Machine.execSchedulerCycle s
  | .sampleReceived bytes => Sys2Proof.Machine.execSampleReceived bytes s
  | .sampleAbort => Sys2Proof.Machine.execSampleAbort s
  | .meterLost => Sys2Proof.Machine.execMeterLost s
  | .blindTimer => Sys2Proof.Machine.execBlindTimer s
  | .holdLineChange level => Sys2Proof.Machine.execHoldLineChange level s
  | .holdDeadline => Sys2Proof.Machine.execHoldDeadline s
  | .holdRequestEnd => Sys2Proof.Machine.execHoldRequestEnd s
  | .returnTimer => Sys2Proof.Machine.execReturnTimer s
  | .cooldownEnd bay => Sys2Proof.Machine.execCooldownEnd bay s
  | .voucherExpiryCheck => Sys2Proof.Machine.execVoucherExpiryCheck s
  | .intervalEnd => Sys2Proof.Machine.execIntervalEnd s
  | .storeWriteComplete result => Sys2Proof.Machine.execStoreWriteComplete result s
  | .lingerTimer => Sys2Proof.Machine.execLingerTimer s
  | .pageTimer => Sys2Proof.Machine.execPageTimer s
  | .pageRewriteEnd => Sys2Proof.Machine.execPageRewriteEnd s
  | .resetDrivenLow => Sys2Proof.Machine.execResetDrivenLow s
  | .siteClockAdvance => Sys2Proof.Machine.execSiteClockAdvance s

end Sys2Proof.Machine
end

