-- ==== Sys2Proof/Safety.lean ====
section
/-!
DEFINITION. What should hold of every state that a run reaches: the laws of the device that a step keeps.
-/
namespace Sys2Proof.Machine

/-- R15: a lane holds at most one frame of a lane kind for a target. -/
abbrev laneUnique (lane : List LaneEntry) : Prop :=
  lane.Pairwise (fun a b => ¬ (a.frame.body.laneKind = b.frame.body.laneKind ∧ a.frame.target = b.frame.target))

/-- R15, for both lanes. -/
def State.lanesUnique (s : State) : Prop := laneUnique s.link.urgent ∧ laneUnique s.link.ordinary

/-- R93: HOLD_ACK is asserted only in hold state MET, and always there. -/
def State.ackInMet (s : State) : Prop := s.hold.ack = decide (s.hold.state = .met)

/-- The bits of a word at positions that carry no attention bit are 0. -/
def spareClear (w : Word) : Prop := w &&& ~~~attnBits = 0

/-- R158, R148: ATTN and ATTN_MASK hold nothing but attention bits. -/
def State.registersSpare (s : State) : Prop := spareClear s.xchg.attn ∧ spareClear s.xchg.mask

/-- R160: the generation count is odd exactly while a rewrite is in progress. -/
def State.countOdd (s : State) : Prop := s.xchg.generation.getLsbD 0 = s.xchg.rewriting

/-- R8: the next-tag count is never 0. -/
def State.tagNonzero (s : State) : Prop := s.link.nextTag ≠ 0

/-- R29: the session table holds at most 32 records. -/
def State.tableFits (s : State) : Prop := s.sess.table.length ≤ 32

/-- R43: the voucher table holds up to 64 entries. -/
def State.vouchersFit (s : State) : Prop := s.sess.vouchers.length ≤ 64

/-- R60: the three shares sum to 1000. -/
def State.sharesWhole (s : State) : Prop := s.meter.shares.sun + s.meter.shares.battery + s.meter.shares.grid = 1000

/-- R57: a residue of 0 to 3599 W·s. -/
def State.residueSmall (s : State) : Prop := s.meter.residue < 3600

/-- R150: the site clock is a count from 0 to 4 294 967 295. -/
def State.clockFits (s : State) : Prop := s.xchg.clock ≤ 4294967295

/-- Section 5: the good-sample count is 0 to 3. -/
def State.goodFits (s : State) : Prop := s.hold.good ≤ 3

/-- All of them together, with the canonical form of the memory. -/
structure State.Sound (s : State) : Prop where
  memory : s.mem.wf
  lanes : s.lanesUnique
  ack : s.ackInMet
  registers : s.registersSpare
  count : s.countOdd
  tag : s.tagNonzero
  table : s.tableFits
  vouchers : s.vouchersFit
  shares : s.sharesWhole
  residue : s.residueSmall
  clock : s.clockFits
  good : s.goodFits

/-- Nothing waits to be served at the end of a command: no round, no page rewrite, no store write that may begin. -/
structure State.Quiet (s : State) : Prop where
  live : s.inReset = false
  rounds : s.roundsAsked = 0
  pages : s.pageAsks = 0
  writes : s.price.active ≠ none ∨ s.price.queue = []

/-! ## Words of the statements -/

/-- A byte address outside the words 0 to 28 of a slot. -/
def outsideSlot (i : Fin 48) (a : Nat) : Prop := a < 2 * slotBase i ∨ 2 * (slotBase i + 29) ≤ a

/-- A byte address outside the status page. -/
def outsidePage (a : Nat) : Prop := a < 2 * pageBase ∨ 2 * (pageBase + pageSize) ≤ a

/-- A byte address outside `n` words from a word address on. -/
def outsideTable (offset : Word) (n a : Nat) : Prop := a < 2 * offset.toNat ∨ 2 * (offset.toNat + n) ≤ a

/-- R155: the slot holds the answer to the request with a ticket. -/
structure AnswerIn (m : Memory) (i : Fin 48) (t : Word) (r : Reply) : Prop where
  state : m.word (slotBase i) = r.state
  ticket : m.word (slotBase i + 3) = t
  answer : m.words (slotBase i + 5) 24 = r.words

/-- R152: the slot is TAKEN by the request with a ticket. -/
structure TakenIn (m : Memory) (i : Fin 48) (t : Word) : Prop where
  state : m.word (slotBase i) = slotTaken
  ticket : m.word (slotBase i + 3) = t

/-- R152: a request as the holder keeps it. -/
def heldAs (i : Fin 48) (t : Word) (k : Kind) (body : List Word) : Held := ⟨i, t, k.code, padBody body⟩

/-- R159, R160: `x` is the exchange unit `u` after one rewrite of the page has been asked for at an elapsed time: a rewrite
begins when the writer is idle and waits otherwise, and nothing else changes but the status page. -/
structure PageAsked (u x : ExchangeUnit) (now : Nat) : Prop where
  rewriting : x.rewriting = true
  rewritePending : x.rewritePending = (u.rewriting || u.rewritePending)
  generation : x.generation = if u.rewriting then u.generation else u.generation + 1
  rewriteBegan : x.rewriteBegan = if u.rewriting then u.rewriteBegan else some now
  memory : ∀ a, outsidePage a → x.mem.read a = u.mem.read a
  attn : x.attn = u.attn
  mask : x.mask = u.mask
  clock : x.clock = u.clock
  offset : x.offset = u.offset
  sweeping : x.sweeping = u.sweeping
  lastSlot : x.lastSlot = u.lastSlot
  wakePending : x.wakePending = u.wakePending
  timersOn : x.timersOn = u.timersOn
  holder : x.holder = u.holder
  lost : x.lost = u.lost

/-- R171, R161, R52, R84, R93, R95, R110, R113, R118, R128, R145, R70, R24: the memory shows the state in every block of the
status page. The setpoint takes one word, since R77 keeps it within the allowances. The places of the form-grid word and of
the counters beside their units, and the values shown for what is absent, are the model's choice (log entry 16); the entries
waiting are log entry 50's. -/
structure PageShows (s : State) (m : Memory) : Prop where
  exchange : m.words 0x0601 8 = showDWord s.xchg.clock ++ showInt s.xchg.offset
    ++ [natWord s.site.run.code, showFlag s.site.siteSet, showFlag s.site.countersMissing, natWord s.placesUsed]
  holder : ∀ p : Fin 8, m.words (0x0610 + 3 * p.val) 3 = match s.xchg.holder[p] with
    | none => [0xFFFF, 0, 0]
    | some h => [natWord h.slot.val, h.ticket, h.kind]
  counters : m.words 0x0628 18 = dwordWords s.sess.voids ++ dwordWords s.xchg.lost ++ dwordWords s.link.missedPolls
    ++ dwordWords s.link.frameErrors ++ dwordWords s.meter.gaps ++ dwordWords s.meter.exceedances
    ++ dwordWords s.rcpt.slipsOut ++ dwordWords s.rcpt.badOffers ++ dwordWords s.link.replacedModules
  meter : m.words 0x0640 15 = [natWord s.meter.state.code, s.meter.latest.seq] ++ showDWord (s.meter.arrival.getD 0)
    ++ showInt s.meter.latest.gridPower ++ [showFlag s.meter.latest.gridPresent] ++ showDWord s.meter.latest.shop
    ++ showDWord s.meter.latest.feeder ++ showDWord s.meter.latest.canopy ++ showInt s.meter.latest.flow
  demand : m.words 0x064F 14 =
    [natWord s.meter.shares.sun, natWord s.meter.shares.battery, natWord s.meter.shares.grid]
    ++ showDWord s.meter.intervalStart ++ showDWord s.meter.used ++ showDWord s.site.settings.intervalTarget
    ++ [showFlag s.meter.exceeded] ++ dwordWords s.meter.gaps ++ dwordWords s.meter.exceedances
  budget : m.words 0x0660 4 = showDWord (if s.meter.state = .live then s.allot.budget else s.allot.blindBudget)
    ++ showDWord (if s.hold.state = .clear then 0 else s.effectiveLimit.getD 0)
  hold : m.words 0x0664 7 = [natWord s.hold.state.code, showFlag s.hold.lineActive]
    ++ (match s.hold.request with
      | none => [0, 0, 0]
      | some r => showDWord r.limit ++ [showWord (r.endTime - s.elapsed)])
    ++ [showWord (match s.hold.deadline with
      | none => 0
      | some d => d - s.elapsed), natWord s.hold.good]
  grid : m.words 0x066B 2 = [natWord s.grid.state.code, showWord (match s.grid.timer with
    | .running e => e - s.elapsed
    | .stopped | .runOut => 0)]
  setpoint : m.words 0x066D 4 = [showSigned (match s.allot.setpoint with
      | .watts w => w
      | .formGrid => 0),
    showFlag (decide (s.allot.setpoint = .formGrid)), natWord s.allot.stance.code, showFlag s.store.topUp]
  battery : m.words 0x0680 12 = [natWord s.store.condition.code, match s.store.soc with
      | none => 0xFFFF
      | some c => natWord c, showFlag s.store.reserve, natWord s.site.settings.reserveFloor]
    ++ showInt s.store.flow ++ [natWord s.store.fault, showFlag s.store.forming, natWord s.store.link.code,
      natWord s.store.rating, showWord s.store.discharge, showWord s.store.charge]
  strings : ∀ i : StringIx, m.words (0x068C + 6 * i.val) 6 =
    [natWord (s.stringOf i).link.code, natWord (s.stringOf i).rating, natWord (s.stringOf i).fault]
    ++ showDWord (if (s.stringOf i).link = .up ∧ (s.stringOf i).fault = 0 then (s.stringOf i).output.getD 0 else 0)
    ++ [match s.allot.ceilings[i] with
      | none => 0xFFFF
      | some c => showWord (100 * c)]
  tariff : m.word 0x06B0 = bandCountWord s.price.bands
  bands : ∀ k : Fin 8, m.words (0x06B1 + 5 * k.val) 5 = match s.price.bands[k.val]? with
    | none => [0, 0, 0, 0, 0]
    | some x => [natWord x.startMinute, natWord x.gridPrice, natWord x.sunPrice, natWord x.batteryPrice, natWord x.idlePrice]
  lock : m.words 0x06D9 8 = [natWord s.bandNumber] ++ dwordWords s.price.generation
    ++ [natWord s.site.settings.idleGrace, showFlag s.price.locked] ++ dwordWords s.price.lockCount
    ++ [showFlag s.price.unlockPending]
  writes : m.words 0x06E1 4 = [showFlag (decide (s.price.active ≠ none)), natWord s.price.queue.length,
    natWord s.price.lastWrite.code, natWord ((if s.price.damaged.tariff then 1 else 0)
      + (if s.price.damaged.session then 2 else 0) + (if s.price.damaged.receipt then 4 else 0))]
  offers : m.words 0x06F0 6 = [s.rcpt.short.seen, s.rcpt.short.read, s.rcpt.short.seen - s.rcpt.short.read,
    s.rcpt.long.seen, s.rcpt.long.read, s.rcpt.long.seen - s.rcpt.long.read]
  receipts : m.words 0x06F6 12 = [s.rcpt.write, s.rcpt.readMark, natWord (s.rcpt.write - s.rcpt.readMark).toNat,
      showFlag s.rcpt.wantSlips, showFlag s.rcpt.wantRoom, showFlag s.price.receipts.valid]
    ++ showDWord (match s.oldestUnbilled with
      | none => 0
      | some x => x.number)
    ++ dwordWords s.rcpt.slipsOut ++ dwordWords s.rcpt.badOffers
  waiting : m.word 0x0710 = natWord s.allot.waitList.length
    ∧ ∀ k : Fin 24, m.word (0x0711 + k.val) = match s.allot.waitList[k.val]? with
      | none => 0
      | some b => natWord (b.val + 1)
  bays : ∀ b : BayIx, m.words (0x0730 + 10 * b.val) 10 = [natWord (s.bayOf b).state.code, (s.bayOf b).change]
    ++ showDWord (s.grantOf b) ++ showDWord (s.bayOf b).power ++ showDWord ((s.bayOf b).session.getD 0)
    ++ showDWord (match s.openSession b with
      | none => 0
      | some x => x.total)
  rest : ∀ a, 0x0820 ≤ a → a < 0x0E00 → m.word a = 0

/-- A sweep that is asked for starts at once and is followed by none (R151). -/
structure State.SweepReady (s : State) : Prop where
  quiet : s.Quiet
  idle : s.xchg.sweeping = none
  wake : s.xchg.wakePending = false
  due : s.restartDue = none

/-- No slot but those named is FILLED. -/
def Memory.filledOnly (m : Memory) (named : List (Fin 48)) : Prop :=
  ∀ i : Fin 48, i ∉ named → m.word (slotBase i) ≠ slotFilled

/-- The host's read mark and write indexes stand as the part has seen them, and no skipped entry stands at a read index
(R133, R135, R136). -/
structure State.ListsAsSeen (s : State) : Prop where
  mark : s.xchg.mem.word 0x0F01 = s.rcpt.readMark
  short : s.xchg.mem.word 0x0E00 = s.rcpt.short.seen
  long : s.xchg.mem.word 0x0E80 = s.rcpt.long.seen
  shortHead : ∀ c, s.rcpt.short.copies.head? = some c → c.skip = false
  longHead : ∀ c, s.rcpt.long.copies.head? = some c → c.skip = false

/-- A POLL answer that passes every check of R3 is at hand, of a NAMED target with fewer than three missed polls and
nothing to send again, and it does not carry the UNNAMED status (R12). -/
structure GoodPoll (s : State) (x : Exchange) (target : Target) (a : AnswerFrame) : Prop where
  quiet : s.Quiet
  run : s.site.run = .run
  awaited : s.link.bus = .awaiting x
  frame : x.frame = ⟨some target, .poll⟩
  good : answerOk x (s.recOf target) a = true
  status : payloadByte a.payload 0 = 1
  named : (s.recOf target).link = .named
  heard : (s.recOf target).missed < 3
  resend : (s.recOf target).resend = ResendSet.empty

/-- R70: the wait list holds each bay at most once, and exactly the bays in AWAIT_POWER. -/
def State.waitListExact (s : State) : Prop :=
  s.allot.waitList.Nodup ∧ ∀ b, b ∈ s.allot.waitList ↔ (s.bayOf b).state = .awaitPower

/-- R75: a bay in CHARGING or SATED has a grant of 1400 W or more, and every other bay a grant of 0. -/
def State.grantsMatch (s : State) : Prop :=
  ∀ b, if (s.bayOf b).state.powered then 1400 ≤ s.grantOf b else s.grantOf b = 0

/-- R67, R81: the grants sum to no more than the latest budget, and in blind running to no more than the blind budget; in
HALTED, where no round runs, every grant is 0. -/
def State.grantsBounded (s : State) : Prop :=
  (s.site.run = .halted → s.grantSum = 0)
    ∧ s.grantSum ≤ match s.meter.state with
      | .live => s.allot.budget
      | .blind => s.allot.blindBudget

end Sys2Proof.Machine
end

