-- ==== Sys2Proof/WellFormed.lean ====
section
/-!
DEFINITION. When a command is well formed: its operands are ones that the line or the memory can carry. The ranges that
the manual checks itself (bays, limits, prices) are no part of this: the part answers them with a refusal.
-/
namespace Sys2Proof

/-- A sweep has 48 slot visits (R151). -/
def SweepArrival.wellFormed (a : SweepArrival) : Bool := decide (a.visit < 48)

/-- A band's fields fit the one word each has in a table (R170). -/
def Band.wellFormed (b : Band) : Bool :=
  decide (b.startMinute < 65536) && decide (b.gridPrice < 65536) && decide (b.sunPrice < 65536)
    && decide (b.batteryPrice < 65536) && decide (b.idlePrice < 65536)

/-- Each field fits the one or two words it has in a SET_SITE table (R170). -/
def SiteSettings.wellFormed (t : SiteSettings) : Bool :=
  decide (t.importCap < 4294967296) && decide (t.feederLimit < 4294967296) && decide (t.exportLimit < 4294967296)
    && decide (t.margin < 4294967296) && decide (t.intervalTarget < 4294967296)
    && decide (t.holdLineLimit < 4294967296) && decide (t.reserveFloor < 65536) && decide (t.topUpTarget < 65536)
    && decide (t.dischargeLimit < 4294967296) && decide (t.chargeLimit < 4294967296)
    && decide (t.freeAuthority < 65536) && decide (t.noticeThreshold < 65536) && decide (t.noticeLinger < 65536)
    && decide (t.idleGrace < 65536) && decide (t.fittedOverride < 65536) && decide (t.speedOverride < 65536)

/-- An answer is received to its end, as given by its length field (R2). -/
def AnswerFrame.wellFormed (f : AnswerFrame) : Bool := decide (f.payload.length = f.length.toNat)

/-- The count of a SET_TARIFF table stands in bits 0 to 7 of its first word (R170). -/
def Instr.wellFormed : Instr → Bool
  | .wake _ _ arr => arr.all SweepArrival.wellFormed
  | .sweepTimer _ arr => arr.all SweepArrival.wellFormed
  | .setSite _ _ _ t => t.wellFormed
  | .setTariff _ _ _ bands => decide (bands.length ≤ 255) && bands.all Band.wellFormed
  | .answerReceived f => f.wellFormed
  | .powerOnReset _ _ => true
  | .run => true
  | .restart => true
  | .setSiteRestart => true
  | .setClock _ _ _ _ => true
  | .authorise _ _ _ _ _ => true
  | .stopSession _ _ _ => true
  | .parkBay _ _ _ => true
  | .returnBay _ _ _ => true
  | .enrolBay _ _ _ => true
  | .postVoucher _ _ _ _ _ _ => true
  | .withdrawVoucher _ _ _ => true
  | .lockTariff _ _ => true
  | .unlockTariff _ _ => true
  | .setCounters _ _ _ _ => true
  | .gridHold _ _ _ _ => true
  | .cancel _ _ _ _ => true
  | .attnRead => true
  | .attnMaskWrite _ => true
  | .registerWriteNoEffect _ => true
  | .busFreeTakeFrame => true
  | .frameSent => true
  | .answerTimeout => true
  | .answerAborted => true
  | .strayBytes => true
  | .broadcastWindowEnd => true
  | .schedulerCycle => true
  | .sampleReceived _ => true
  | .sampleAbort => true
  | .meterLost => true
  | .blindTimer => true
  | .holdLineChange _ => true
  | .holdDeadline => true
  | .holdRequestEnd => true
  | .returnTimer => true
  | .cooldownEnd _ => true
  | .voucherExpiryCheck => true
  | .intervalEnd => true
  | .storeWriteComplete _ => true
  | .lingerTimer => true
  | .pageTimer => true
  | .pageRewriteEnd => true
  | .resetDrivenLow => true
  | .siteClockAdvance => true

end Sys2Proof
end

