-- ==== Sys2Proof/Certificates/Slice0/Obligations.lean ====
section
/-!
DEFINITION. The statements for the provers. A statement that a command answers a next state names every field that the
command changes; the fields that the new state repeats from the old one are its frame.
-/
section
open Sys2Proof Sys2Proof.Machine

/-! ## The queue, and what every step keeps -/

/-- A step takes the command at the front of the queue and runs it on the state with the queue's rest. The model's choice
(log entry 3): a step on an empty queue changes nothing. -/
def Obligations.StepTakesTheFrontCommand : Prop :=
  (∀ (c : Instr) (cs : List Instr) (s : State), step { s with pending := c :: cs } = exec c { s with pending := cs })
  ∧ (∀ s : State, s.pending = [] → step s = .next s)

/-- Every command answers a next state, whatever the state and the operands, and none changes the queue. -/
def Obligations.CommandsKeepTheQueue : Prop :=
  ∀ (c : Instr) (s : State), ∃ t, exec c s = .next t ∧ t.pending = s.pending

/-- The laws of the part are kept by every step: the canonical memory, one frame of a lane kind for a target in a lane
(R15), HOLD_ACK in MET alone (R93), no other bits in the attention registers (R148, R158), the generation count odd
exactly during a rewrite (R160), a next tag other than 0 (R8), the bounds of the tables (R29, R43), shares of 1000 in all
(R60), the residue (R57), the site clock (R150) and the good-sample count. -/
def Obligations.EveryStepKeepsTheLaws : Prop := ∀ s t : State, s.Sound → step s = .next t → t.Sound

/-- They hold of State.reset, and so do the match of the wait list and of the grants with the bay states, and the bound of
the grants. -/
def Obligations.ResetHasTheLaws : Prop :=
  State.reset.Sound ∧ State.reset.waitListExact ∧ State.reset.grantsMatch ∧ State.reset.grantsBounded

/-- A command that ends outside reset leaves no round, no page request and no startable store write behind; the model
serves them when the command ends (log entry 4). -/
def Obligations.EveryCommandEndsServed : Prop :=
  ∀ (c : Instr) (s t : State), exec c s = .next t → t.inReset = false → t.Quiet

/-- R70: the wait list holds each bay at most once, and exactly the bays in AWAIT_POWER. Every step keeps that, with R75's
match of grants and bay states, which it rests on. R67, R81, R82: every step keeps the sum of the grants within the latest
budget, in blind running within the blind budget. -/
def Obligations.EveryStepKeepsWaitListAndGrants : Prop :=
  (∀ s t : State, s.waitListExact → s.grantsMatch → step s = .next t → t.waitListExact ∧ t.grantsMatch)
  ∧ (∀ s t : State, s.grantsBounded → step s = .next t → t.grantsBounded)

/-! ## Reset, straps and run state -/

/-- R164: in reset the part takes no event (log entry 6), writes are lost, every read returns 0, and BAYBUS_DE and HOLD_ACK
are low and IRQ released. RESET going low cuts a store write off and leaves its item damaged; the model's timers stop (log
entry 6). -/
def Obligations.ResetHoldsThePart : Prop :=
  (∀ s : State, s.inReset = true →
    (∀ c : Instr, c ≠ .attnRead → c ≠ .resetDrivenLow → (∀ straps level, c ≠ .powerOnReset straps level) →
      exec c s = .next s)
    ∧ exec .attnRead s = .next { s with spiData := 0 }
    ∧ s.readMask = 0 ∧ s.readWake = 0 ∧ (∀ a, s.hostReadWord a = 0)
    ∧ s.identView = ⟨0, 0, ⟨false, false, false, false⟩, false⟩ ∧ s.siteCtlView = ⟨.halted, false, false, .none⟩
    ∧ s.baybusDe = false ∧ s.holdAckPin = false ∧ s.irq = false)
  ∧ (∀ s : State,
    (s.price.active = none → exec .resetDrivenLow s = .next { s with inReset := true, xchg.timersOn := false })
    ∧ (∀ a, s.price.active = some a → exec .resetDrivenLow s = .next { s with
        inReset := true, xchg.timersOn := false, price.active := none,
        nv := match a.job with
          | .block .session _ => { s.nv with sessionDamaged := true }
          | .block .receipt _ => { s.nv with receiptDamaged := true }
          | _ => { s.nv with tariffDamaged := true } }))

/-- The values after power-on reset (R23, R47, R62, R85, R99, R114, R132, R146, R162, R164): of the site, the module and bay
records, the units, the prices and number blocks loaded from the store, and the Exchange Unit. The REQUESTED state with its
deadline under an active line is log entry 24's; that the first page rewrite and the first block write have begun is log
entry 4's; the base 0 of a damaged kind is log entry 48's; that the session base is asked first is log entry 55's. The model's
choice (log entry 23, DEDUCED): a base whose successor is above 4294967232 gives the last write result FAILED with STORE
attention. -/
def Obligations.PowerOnResetGivesTheValues : Prop :=
  ∀ (straps : Straps) (level : Bool) (s : State), ∃ t, exec (.powerOnReset straps level) s = .next t
    ∧ t.inReset = false ∧ t.pending = s.pending ∧ t.restartDue = none
    ∧ t.nv = (match s.price.active with
        | none => s.nv
        | some a => s.nv.damagedBy a)
    ∧ t.site = ⟨straps, level, .halted, false, t.nv.sessionDamaged || t.nv.receiptDamaged, .none, SiteSettings.reset,
        FixedFields.reset⟩
    ∧ (∀ target, t.recOf target = ModuleRec.reset (match target with
        | .bay b => if b.val + 1 ≤ fittedCount straps 0 then .isIn else .beyond
        | .string _ => .isIn
        | .store => .isIn))
    ∧ t.link.urgent = [] ∧ t.link.ordinary = [] ∧ t.link.nextTag = 1 ∧ t.link.bus = .idle ∧ t.link.cycleStart = none
    ∧ t.link.frameErrors = 0 ∧ t.link.missedPolls = 0 ∧ t.link.replacedModules = 0
    ∧ (∀ b, t.bayOf b = BayRec.reset (if b.val + 1 ≤ fittedCount straps 0 then .seeking else .unfitted))
    ∧ t.sess.table = [] ∧ t.sess.vouchers = [] ∧ t.sess.voids = 0
    ∧ t.meter = MeterUnit.reset ∧ t.allot = AllotUnit.reset ∧ t.grid = GridWatch.reset ∧ t.store = StoreUnit.reset
    ∧ t.rcpt = ReceiptUnit.reset
    ∧ t.hold = (if level != straps.holdpol then ⟨true, none, .requested, some 60, 0, false⟩
        else ⟨false, none, .clear, none, 0, false⟩)
    ∧ t.price.bands = (if t.nv.tariffDamaged then [] else t.nv.tariff.bands)
    ∧ t.price.generation = (if t.nv.tariffDamaged then 0 else t.nv.tariff.generation)
    ∧ t.price.locked = (if t.nv.tariffDamaged then false else t.nv.tariff.locked)
    ∧ t.price.lockCount = (if t.nv.tariffDamaged then 0 else t.nv.tariff.lockCount)
    ∧ t.price.damaged = ⟨t.nv.tariffDamaged, t.nv.sessionDamaged, t.nv.receiptDamaged⟩ ∧ t.price.unlockPending = false
    ∧ t.price.sessions = (if t.nv.sessionDamaged then ⟨none, 0, false, none⟩
        else ⟨some (t.nv.session + 64), t.nv.session, false,
          if maxBase < t.nv.session + 64 then none else some (t.nv.session + 64)⟩)
    ∧ t.price.receipts = (if t.nv.receiptDamaged then ⟨none, 0, false, none⟩
        else ⟨some (t.nv.receipt + 64), t.nv.receipt, false,
          if maxBase < t.nv.receipt + 64 then none else some (t.nv.receipt + 64)⟩)
    ∧ (let writes := (if t.nv.sessionDamaged ∨ maxBase < t.nv.session + 64 then []
            else [StoreJob.block .session (t.nv.session + 64)])
          ++ (if t.nv.receiptDamaged ∨ maxBase < t.nv.receipt + 64 then []
            else [StoreJob.block .receipt (t.nv.receipt + 64)])
       t.price.active.map (·.job) = writes.head? ∧ t.price.queue = writes.drop 1)
    ∧ (let impossible := maxBase < t.nv.session + 64 ∧ t.nv.sessionDamaged = false
          ∨ maxBase < t.nv.receipt + 64 ∧ t.nv.receiptDamaged = false
       t.price.lastWrite = (if impossible then .failed else .none)
        ∧ t.xchg.attn = if impossible ∨ t.nv.tariffDamaged ∨ t.nv.sessionDamaged ∨ t.nv.receiptDamaged
            then Attention.store.bit else 0)
    ∧ t.xchg.mask = 0 ∧ t.xchg.clock = 0 ∧ t.xchg.offset = 0 ∧ t.xchg.sweeping = none ∧ t.xchg.lastSlot = 47
    ∧ t.xchg.wakePending = false ∧ t.xchg.lost = 0 ∧ t.xchg.timersOn = true ∧ (∀ p : Fin 8, t.xchg.holder[p] = none)
    ∧ t.xchg.rewriting = true ∧ t.xchg.rewritePending = false ∧ t.xchg.generation = 1
    ∧ (∀ a, outsidePage a → t.xchg.mem.read a = 0)

/-- R163: the straps are latched at power-on reset and by nothing else, IDENT shows them with the strap error flag, and
they mean what R163 says. -/
def Obligations.StrapsAreLatchedAtPowerOnReset : Prop :=
  (∀ (straps : Straps) (level : Bool) (s t : State), exec (.powerOnReset straps level) s = .next t →
      t.site.straps = straps)
  ∧ (∀ (c : Instr) (s t : State), exec c s = .next t → (∀ straps level, c ≠ .powerOnReset straps level) →
      t.site.straps = s.site.straps)
  ∧ (∀ s : State, (s.inReset = false → s.identView.straps = s.site.straps ∧ s.identView.strapError = s.strapError)
      ∧ (s.strapError = true ↔ s.site.straps.fit1 = false ∧ s.site.straps.fit0 = false)
      ∧ (s.site.inForce.fittedOverride ≠ 0 → s.fitted = s.site.inForce.fittedOverride)
      ∧ (s.site.inForce.fittedOverride = 0 → s.fitted = match s.site.straps.fit1, s.site.straps.fit0 with
          | false, false => 0
          | false, true => 8
          | true, false => 16
          | true, true => 24)
      ∧ (s.site.inForce.speedOverride = 0 → s.busRate = if s.site.straps.bayspd then 460800 else 115200)
      ∧ (∀ level, lineActive s.site.straps.holdpol level = if s.site.straps.holdpol then !level else level))
  ∧ (∀ s : State, s.Quiet → s.site.run = .halted → s.strapError = true →
      exec .run s = .next { s with site.lastRefusal := .strapError })
  ∧ (∀ (straps : Straps) (level : Bool) (s t : State), straps.fit1 = false → straps.fit0 = false →
      exec (.powerOnReset straps level) s = .next t →
      (∀ b, (t.bayOf b).state = .unfitted ∧ (t.recOf (.bay b)).fit = .beyond))

/-- R165: the tests of a RUN in their order, a RUN in RUN, and a RUN that passes every test: the broadcast NAME with tag 0
joins the ordinary lane, the blind timer starts when the meter is BLIND, and a page rewrite is asked for. -/
def Obligations.RunIsTestedInOrder : Prop :=
  ∀ s : State, s.Quiet →
    (s.site.run = .run → exec .run s = .next s)
    ∧ (s.site.run = .halted → s.strapError = true → exec .run s = .next { s with site.lastRefusal := .strapError })
    ∧ (s.site.run = .halted → s.strapError = false → s.site.countersMissing = true →
        exec .run s = .next { s with site.lastRefusal := .storeDamaged })
    ∧ (s.site.run = .halted → s.strapError = false → s.site.countersMissing = false → s.site.siteSet = false →
        exec .run s = .next { s with site.lastRefusal := .noSite })
    ∧ (s.site.run = .halted → s.strapError = false → s.site.countersMissing = false → s.site.siteSet = true →
      ∃ x : ExchangeUnit, exec .run s = .next { s with
          site.run := .run, site.lastRefusal := .none,
          link.ordinary := joinAt ⟨⟨none, .name 0⟩, false, true⟩ s.link.ordinary,
          allot.blindTimer := decide (s.meter.state = .blind) || s.allot.blindTimer,
          xchg := x }
        ∧ x.rewriting = true ∧ x.rewritePending = (s.xchg.rewriting || s.xchg.rewritePending)
        ∧ (∀ a, outsidePage a → x.mem.read a = s.xchg.mem.read a)
        ∧ x.attn = s.xchg.attn ∧ x.mask = s.xchg.mask ∧ x.clock = s.xchg.clock ∧ x.offset = s.xchg.offset
        ∧ x.holder = s.xchg.holder ∧ x.lastSlot = s.xchg.lastSlot ∧ x.lost = s.xchg.lost
        ∧ x.wakePending = s.xchg.wakePending ∧ x.sweeping = s.xchg.sweeping ∧ x.timersOn = s.xchg.timersOn)

/-- R167: a site restart, by RESTART or after an accepted SET_SITE with changed fixed fields (R166). Every held request is
answered REFUSED ABORTED (R162), and every OPEN session closes, with SITE_RESTART unless it is in ENDING (R47). Without a
restart made due and a sweep waiting, the row SET_SITE_RESTART changes nothing. That the grid-forming flag is kept is log entry
45's. -/
def Obligations.SiteRestartRenewsTheUnits : Prop :=
  (∀ s : State, s.Quiet → s.restartDue = none → s.xchg.wakePending = false → exec .setSiteRestart s = .next s)
  ∧ ∀ (c : Instr) (ending : RunState) (s : State), s.Quiet → s.ackInMet →
    (c = .restart ∧ ending = .halted ∨ c = .setSiteRestart ∧ s.restartDue = some ending ∧ s.xchg.wakePending = false) →
    ∃ t, exec c s = .next t
      ∧ t.site = { s.site with run := ending, inForce := fixedOf s.site.settings }
      ∧ t.restartDue = (if c = .restart then s.restartDue else none)
      ∧ t.xchg.clock = s.xchg.clock ∧ t.xchg.offset = s.xchg.offset ∧ t.xchg.mask = s.xchg.mask
      ∧ t.xchg.lastSlot = s.xchg.lastSlot ∧ t.xchg.wakePending = s.xchg.wakePending
      ∧ (∀ p : Fin 8, t.xchg.holder[p] = none)
      ∧ (∀ (p : Fin 8) (h : Held), s.xchg.holder[p] = some h → TakenIn s.xchg.mem h.slot h.ticket →
          AnswerIn t.xchg.mem h.slot h.ticket (.refused .aborted) ∧ t.xchg.attn &&& Attention.slot.bit ≠ 0)
      ∧ ((∀ (p : Fin 8) (h : Held), s.xchg.holder[p] = some h → TakenIn s.xchg.mem h.slot h.ticket
            ∧ ∀ (q : Fin 8) (g : Held), q ≠ p → s.xchg.holder[q] = some g → g.slot ≠ h.slot) →
          t.xchg.lost = s.xchg.lost)
      ∧ ((∀ (p : Fin 8) (h : Held), s.xchg.holder[p] = some h → ¬ TakenIn s.xchg.mem h.slot h.ticket) →
          t.xchg.lost = s.xchg.lost + BitVec.ofNat 32 s.placesUsed)
      ∧ t.link.urgent = [] ∧ t.link.ordinary = (match ending with
          | .run => [⟨⟨none, .name 0⟩, false, true⟩]
          | .halted => [])
      ∧ (∀ target, t.recOf target = { ModuleRec.reset (match target with
            | .bay b => if t.isFitted b then .isIn else .beyond
            | .string _ => .isIn
            | .store => .isIn) with
          serial := (s.recOf target).serial, cls := (s.recOf target).cls, rating := (s.recOf target).rating,
          energy := (s.recOf target).energy })
      ∧ t.link.bus = (match s.link.bus with
          | .sending _ | .abandoned => .abandoned
          | .idle | .awaiting _ | .window => .idle)
      ∧ t.link.cycleStart = none ∧ t.link.nextTag = s.link.nextTag ∧ t.link.frameErrors = s.link.frameErrors
      ∧ t.link.missedPolls = s.link.missedPolls ∧ t.link.replacedModules = s.link.replacedModules
      ∧ (∀ b, t.bayOf b = { BayRec.reset (if t.isFitted b then .seeking else .unfitted) with
          change := (t.bayOf b).change })
      ∧ (∀ x ∈ t.sess.table, x.isOpen = false)
      ∧ (∀ y ∈ t.sess.table, y ∈ s.sess.table ∧ y.isOpen = false ∨ ∃ z ∈ s.sess.table, z.isOpen = true
          ∧ y.number = z.number ∧ y.bay = z.bay ∧ y.total = z.total ∧ y.segments = z.segments
          ∧ y.lastReading = z.lastReading ∧ y.closed = some s.xchg.clock
          ∧ y.cause = if (s.bayOf z.bay).state = .ending then z.cause else some .siteRestart)
      ∧ (s.price.receipts.valid = false → (s.sess.table.map (·.number)).Nodup → ∀ z ∈ s.sess.table, z.isOpen = true →
          (∀ y ∈ s.sess.table, y.isOpen = true → y.bay = z.bay → y = z) → z.total ≠ 0 →
          ∃ y ∈ t.sess.table, y.number = z.number
            ∧ y.cause = if (s.bayOf z.bay).state = .ending then z.cause else some .siteRestart)
      ∧ ((∀ x ∈ s.sess.table, x.isOpen = false) → t.sess.table = s.sess.table ∧ t.sess.vouchers = s.sess.vouchers
          ∧ t.sess.voids = s.sess.voids ∧ t.rcpt = s.rcpt)
      ∧ (∀ v ∈ s.sess.vouchers, (∀ x ∈ s.sess.table, x.voucher ≠ some v.code) → v ∈ t.sess.vouchers)
      ∧ t.allot = { AllotUnit.reset with
          blindBudget := if s.meter.state = .live then s.allot.blindBudget else 0,
          blindTimer := s.allot.blindTimer && decide (ending = .run) }
      ∧ t.hold.lineActive = s.hold.lineActive ∧ t.hold.request = none ∧ t.hold.ack = false ∧ t.hold.good = 0
      ∧ t.hold.state = (if s.hold.lineActive then .requested else .clear)
      ∧ t.hold.deadline = (if s.hold.lineActive then some (s.elapsed + 60) else none)
      ∧ t.grid = s.grid ∧ t.meter = s.meter
      ∧ t.store.link = .none ∧ t.store.condition = .offline ∧ t.store.soc = s.store.soc ∧ t.store.rating = s.store.rating
      ∧ t.store.flow = s.store.flow ∧ t.store.fault = s.store.fault ∧ t.store.forming = s.store.forming
      ∧ t.store.reserve = s.store.reserve ∧ t.store.gridAbsent = s.store.gridAbsent ∧ t.store.holdMissed = false
      ∧ t.store.topUp = false
      ∧ (∀ i, t.stringOf i = { s.stringOf i with link := .none, output := none })
      ∧ t.price.bands = s.price.bands ∧ t.price.generation = s.price.generation ∧ t.price.locked = s.price.locked
      ∧ t.price.lockCount = s.price.lockCount ∧ t.price.sessions = s.price.sessions

/-! ## Registers -/

/-- R158, R148, R149: a read of ATTN returns the bits and clears them, ATTN_MASK takes the enables, IRQ is asserted exactly
while a bit is set in both registers, and the writes without effect. What the other registers and the memory read as, out of
reset. The bit positions are log entry 8's. -/
def Obligations.RegistersAreReadAndWritten : Prop :=
  (∀ s : State, s.Quiet → exec .attnRead s = .next { s with spiData := s.xchg.attn, xchg.attn := 0 })
  ∧ (∀ (value : Word) (s : State), s.Quiet →
    exec (.attnMaskWrite value) s = .next { s with xchg.mask := value &&& attnBits })
  ∧ (∀ s : State, s.inReset = false → (s.irq = true ↔ s.xchg.attn &&& s.xchg.mask ≠ 0))
  ∧ (∀ (w : InertWrite) (s : State), s.Quiet → exec (.registerWriteNoEffect w) s = .next s)
  ∧ (∀ (v v' : Word) (ws : List HostWrite) (arr : List SweepArrival) (s : State),
      exec (.wake v ws arr) s = exec (.wake v' ws arr) s)
  ∧ (∀ s : State, s.readWake = 0)
  ∧ (∀ s : State, s.inReset = false → s.readMask = s.xchg.mask ∧ (∀ a, s.hostReadWord a = s.xchg.mem.word a.toNat)
      ∧ s.siteCtlView = ⟨s.site.run, s.site.siteSet, s.site.countersMissing, s.site.lastRefusal⟩)

/-! ## A bay's poll answers -/

/-- R12, R13, R24, R26, R27, R30, R31, R32, R37, R40: what a POLL answer of a bay does to the bay: its reading and power are
stored, a vehicle that comes or goes, the opening under FREE authority, a fault, the stop button, and the final answer of a
session. That a fault beside a limit reached closes the session at once is log entry 7's (DEDUCED). -/
def Obligations.BayPollsMoveTheBay : Prop :=
  ∀ (x : Exchange) (b : BayIx) (a : AnswerFrame) (s : State), GoodPoll s x (.bay b) a →
    let r := bayReport a.payload
    let bay := s.bayOf b
    let recs := s.link.recs.set (Target.bay b).ix { s.recOf (.bay b) with missed := 0, energy := some r.energy }
    let plain := s.openSession b = none ∧ ∀ l, (s.recOf (.bay b)).energy = some l → l ≤ r.energy
    let moved := { s.xchg with attn := s.xchg.attn ||| Attention.bay.bit }
    (∃ t, exec (.answerReceived a) s = .next t ∧ t.link.bus = .idle ∧ (t.recOf (.bay b)).missed = 0
      ∧ (t.recOf (.bay b)).energy = some r.energy ∧ (t.bayOf b).power = r.power ∧ t.meter = s.meter ∧ t.hold = s.hold
      ∧ t.grid = s.grid ∧ t.site = s.site ∧ t.xchg.clock = s.xchg.clock ∧ t.xchg.mask = s.xchg.mask)
    ∧ (plain → bay.state = .vacant ∧ r.present = false ∧ r.fault = 0
        ∨ bay.state = .plugged ∧ r.present = true ∧ r.fault = 0 ∧ bay.freePending = false ∧ r.keypad = none
        ∨ bay.state = .faulted ∧ r.fault ≠ 0 →
      exec (.answerReceived a) s = .next { s with
        link.bus := .idle, link.recs := recs, sess.bays := s.sess.bays.set b { bay with power := r.power } })
    ∧ (plain → bay.state = .vacant ∨ bay.state = .faulted → r.present = true → r.fault = 0 → s.freeOn = false →
        r.keypad = none →
      ∃ xu, exec (.answerReceived a) s = .next { s with
          link.bus := .idle, link.recs := recs,
          link.ordinary := joinAt ⟨⟨some (.bay b), .show .enterCode⟩, false, false⟩ s.link.ordinary,
          sess.bays := s.sess.bays.set b { bay with power := r.power, state := .plugged, change := bay.change + 1 },
          xchg := xu }
        ∧ PageAsked moved xu s.elapsed)
    ∧ (plain → bay.state = .vacant ∨ bay.state = .faulted ∨ bay.state = .plugged ∧ bay.freePending = true →
        r.present = true → r.fault = 0 → r.stop = false → s.freeOn = true → bay.parkPending = false →
      (∀ n, s.price.bands ≠ [] → s.price.unlockPending = false → s.price.sessions.valid = true →
          s.price.sessions.next = some n → s.sess.table.length < 32 →
        ∃ t, exec (.answerReceived a) s = .next t
          ∧ (∃ y ∈ t.sess.table, y.number = n ∧ y.isOpen = true ∧ y.bay = b ∧ y.authority = .free ∧ y.account = none
              ∧ y.voucher = none ∧ y.limit = none ∧ y.total = 0)
          ∧ ((t.bayOf b).state = .awaitPower ∨ (t.bayOf b).state = .charging) ∧ (t.bayOf b).session = some n
          ∧ (t.bayOf b).latch = .lock ∧ (t.bayOf b).freePending = false ∧ t.price.sessions.next = some (n + 1)
          ∧ (∃ e ∈ t.link.ordinary, e.frame = ⟨some (.bay b), .lock⟩))
      ∧ (s.price.bands ≠ [] → s.price.unlockPending = false → s.price.sessions.valid = false ∨ 32 ≤ s.sess.table.length →
        ∃ t, exec (.answerReceived a) s = .next t ∧ (t.bayOf b).state = .plugged ∧ (t.bayOf b).freePending = true
          ∧ t.sess.table = s.sess.table ∧ (∃ e ∈ t.link.ordinary, e.frame = ⟨some (.bay b), .show .outOfService⟩))
      ∧ (s.price.bands = [] ∨ s.price.unlockPending = true →
        ∃ t, exec (.answerReceived a) s = .next t ∧ (t.bayOf b).state = .plugged
          ∧ (t.bayOf b).freePending = bay.freePending ∧ t.sess.table = s.sess.table
          ∧ (∃ e ∈ t.link.ordinary, e.frame = ⟨some (.bay b), .show .outOfService⟩)))
    ∧ (plain → bay.state = .plugged ∨ bay.state = .faulted → r.present = false → r.fault = 0 →
      ∃ xu, exec (.answerReceived a) s = .next { s with
          link.bus := .idle, link.recs := recs,
          sess.bays := s.sess.bays.set b { bay with
            power := r.power, state := .vacant, change := bay.change + 1,
            freePending := if bay.state = .plugged then false else bay.freePending },
          xchg := xu }
        ∧ PageAsked moved xu s.elapsed)
    ∧ (plain → bay.state = .vacant ∨ bay.state = .plugged → r.fault ≠ 0 →
      ∃ xu, exec (.answerReceived a) s = .next { s with
          link.bus := .idle, link.recs := recs,
          link.ordinary := joinAt ⟨⟨some (.bay b), .show .outOfService⟩, false, false⟩ s.link.ordinary,
          sess.bays := s.sess.bays.set b { bay with
            power := r.power, state := .faulted, change := bay.change + 1, freePending := false },
          xchg := xu }
        ∧ PageAsked moved xu s.elapsed)
    ∧ (bay.state.eligible = true → r.fault = 0 → r.present = false ∨ r.stop = true →
        (s.recOf (.bay b)).energy = some r.energy
          ∨ (∀ z, s.openSession b = some z → z.limit = none ∧ z.segments.length < 16) →
      ∃ t, exec (.answerReceived a) s = .next t ∧ (t.bayOf b).state = .ending ∧ t.grantOf b = 0 ∧ b ∉ t.allot.waitList
        ∧ (∀ z ∈ t.sess.table, z.isOpen = true → z.bay = b →
            z.cause = some (if r.present then .stopButton else .unplugged))
        ∧ (∃ e ∈ t.link.ordinary, e.head = true ∧ e.frame.target = some (.bay b) ∧ e.frame.body.laneKind = .link)
        ∧ t.sess.table.length = s.sess.table.length ∧ t.sess.vouchers = s.sess.vouchers ∧ t.rcpt = s.rcpt
        ∧ t.price = s.price)
    ∧ (bay.state.eligible = true ∨ bay.state = .ending → r.fault ≠ 0 → s.openSession b ≠ none →
      ∃ t, exec (.answerReceived a) s = .next t ∧ (t.bayOf b).state = .faulted ∧ (t.bayOf b).session = none
        ∧ (t.bayOf b).latch = .release ∧ (∀ z ∈ t.sess.table, z.bay = b → z.isOpen = false)
        ∧ (bay.state.eligible = true → t.grantOf b = 0 ∧ b ∉ t.allot.waitList)
        ∧ (∃ e ∈ t.link.ordinary, e.frame = ⟨some (.bay b), .release⟩)
        ∧ (∃ e ∈ t.link.ordinary, e.frame = ⟨some (.bay b), .show .outOfService⟩))
    ∧ (bay.state = .ending → r.fault = 0 → s.openSession b ≠ none →
      ∃ t, exec (.answerReceived a) s = .next t ∧ (t.bayOf b).state = (if r.present then .plugged else .vacant)
        ∧ (t.bayOf b).session = none ∧ (t.bayOf b).latch = .release
        ∧ (∀ z ∈ t.sess.table, z.bay = b → z.isOpen = false)
        ∧ (∃ e ∈ t.link.ordinary, e.frame = ⟨some (.bay b), .release⟩)
        ∧ (r.present = true → s.freeOn = false → ∃ e ∈ t.link.ordinary, e.frame = ⟨some (.bay b), .show .enterCode⟩))

/-- R12, steps 1, 2, 3 and 6, R4, R6, R14, R25: a POLL answer that carries the UNNAMED status, or that ends the silence of a
NAMED target, makes the record UNNAMED, empties its resend set, takes its frames but a WHO or NAME out of the lanes, queues WHO
and tells the owning unit; nothing else in it is used. Any other good answer of a NAMED or PARKED bay, a string or the store
converter sends the resend set again and empties it, whatever it reports. The order of the kinds is log entry 43's. A PARKED
bay's answer stores its reading, and ends no silence. -/
def Obligations.PollAnswersEndSilencesAndResend : Prop :=
  ∀ (x : Exchange) (target : Target) (a : AnswerFrame) (s : State), s.Quiet → s.site.run = .run →
    s.link.bus = .awaiting x → x.frame = ⟨some target, .poll⟩ → answerOk x (s.recOf target) a = true →
    let r := s.recOf target
    let again := payloadByte a.payload 0 = 0 ∨ r.link = .named ∧ 3 ≤ r.missed
    let keeps := fun (e : LaneEntry) => !decide (e.frame.target = some target) || e.frame.body.enrols
    let park : LaneEntry := ⟨⟨some target, .park⟩, false, false⟩
    let grant : LaneEntry := ⟨⟨some target, .grant r.issuedGrant⟩, false, false⟩
    let cap : LaneEntry := ⟨⟨some target, .cap r.issuedCap⟩, false, false⟩
    (again → ∃ t, exec (.answerReceived a) s = .next t ∧ t.link.bus = .idle
      ∧ t.recOf target = { r with link := .unnamed, tag := 0, resend := ResendSet.empty, enrol := none }
      ∧ t.link.urgent = s.link.urgent.filter keeps
      ∧ t.link.ordinary = joinAt ⟨⟨some target, .who⟩, false, false⟩ (s.link.ordinary.filter keeps)
      ∧ (∀ other, other ≠ target → t.recOf other = s.recOf other)
      ∧ (∀ b, target = .bay b → r.fit = .isIn → let bay := s.bayOf b
        match bay.state with
        | .vacant | .plugged | .faulted | .parked | .unfitted =>
          t.bayOf b = { bay with
            state := .seeking, change := bay.change + 1, wrongCodes := [], cooldown := none, lowStart := none,
            highCount := 0, freePending := false }
          ∧ t.xchg.attn &&& Attention.bay.bit ≠ 0
        | .seeking | .silent | .awaitPower | .charging | .sated | .ending => t.bayOf b = bay)
      ∧ (∀ i, target = .string i →
        t.stringOf i = { s.stringOf i with link := if (s.stringOf i).link = .up then .down else (s.stringOf i).link })
      ∧ (target = .store → t.store.link = (if s.store.link = .up then .down else s.store.link)
        ∧ t.store.condition = conditionOf t.store.link s.store.gridAbsent s.store.fault s.store.reserve)
      ∧ (target ≠ .store → t.allot = s.allot) ∧ t.allot.grants = s.allot.grants ∧ t.allot.waitList = s.allot.waitList
      ∧ t.sess.table = s.sess.table ∧ t.meter = s.meter ∧ t.hold = s.hold ∧ t.grid = s.grid ∧ t.price = s.price
      ∧ t.rcpt = s.rcpt ∧ t.site = s.site ∧ t.nv = s.nv
      ∧ t.sess.vouchers = s.sess.vouchers ∧ t.sess.voids = s.sess.voids ∧ (∀ c, target ≠ .bay c → t.bayOf c = s.bayOf c)
      ∧ (∀ b, target = .bay b → t.store = s.store)
      ∧ (∀ i, target = .string i → t.xchg = s.xchg ∧ t.store = { s.store with strings := t.store.strings }
        ∧ ∀ j, j ≠ i → t.stringOf j = s.stringOf j)
      ∧ (∀ b, target = .bay b → (t.bayOf b).state = (s.bayOf b).state → t.xchg = s.xchg)
      ∧ (∀ b, target = .bay b → (t.bayOf b).state ≠ (s.bayOf b).state →
        PageAsked { s.xchg with attn := s.xchg.attn ||| Attention.bay.bit } t.xchg s.elapsed)
      ∧ (target = .store → if t.store.condition = s.store.condition
        then t.xchg = s.xchg ∧ t.store = { s.store with link := t.store.link }
        else PageAsked { s.xchg with attn := s.xchg.attn ||| Attention.store.bit } t.xchg s.elapsed))
    ∧ (payloadByte a.payload 0 = 1 → r.link = .named → r.missed < 3 → ∀ b, target = .bay b →
      let w := bayReport a.payload
      ∃ t, exec (.answerReceived a) s = .next t ∧ t.link.bus = .idle ∧ (t.recOf target).link = .named
        ∧ (t.recOf target).missed = 0 ∧ (t.recOf target).energy = some w.energy
        ∧ (t.recOf target).resend = ResendSet.empty ∧ (t.bayOf b).power = w.power
        ∧ (r.resend.park = true → ∃ e ∈ t.link.urgent, e.frame = ⟨some target, .park⟩)
        ∧ (r.resend.latch = true → ∃ e ∈ t.link.ordinary, e.frame = ⟨some target, match (t.bayOf b).latch with
          | .lock => .lock
          | .release => .release⟩)
        ∧ (r.resend.grant ≠ none → r.resend.park = false → s.queued .park target = false →
            (s.bayOf b).parkPending = false →
          ∃ e ∈ t.link.urgent ++ t.link.ordinary, e.frame = ⟨some target, .grant (t.recOf target).issuedGrant⟩))
    ∧ (payloadByte a.payload 0 = 1 → ∀ b, target = .bay b →
      let w := bayReport a.payload
      let bay := s.bayOf b
      let latch : LaneEntry := ⟨⟨some target, match bay.latch with
        | .lock => .lock
        | .release => .release⟩, false, false⟩
      let blocked := r.resend.park || s.queued .park target
      let urgent := if r.resend.park then joinAt park (dropFrames .grant (some target) s.link.urgent) else s.link.urgent
      let ordinary := if r.resend.park then dropFrames .grant (some target) s.link.ordinary else s.link.ordinary
      let granted := match r.resend.grant, blocked with
        | some .urgent, false => (joinAt grant urgent, dropFrames .grant (some target) ordinary)
        | some .ordinary, false => (urgent, joinAt grant ordinary)
        | some _, true | none, _ => (urgent, ordinary)
      let served := fun (after : BayRec) => exec (.answerReceived a) s = .next { s with
        link.bus := .idle,
        link.recs := s.link.recs.set target.ix { r with missed := 0, energy := some w.energy, resend := ResendSet.empty },
        link.urgent := granted.1,
        link.ordinary := if r.resend.latch then joinAt latch granted.2 else granted.2,
        sess.bays := s.sess.bays.set b after }
      r.resend.cap = none → r.resend.setpoint = none →
      (r.link = .parked → served bay)
      ∧ (r.link = .named → r.missed < 3 → r.energy = some w.energy → w.fault = 0 →
          (∀ z ∈ s.sess.table, z.isOpen = true → z.bay = b → z.lastReading = some w.energy) →
          bay.state = .vacant ∧ w.present = false
            ∨ bay.state = .plugged ∧ w.present = true ∧ w.keypad = none ∧ bay.freePending = false
            ∨ bay.state = .awaitPower ∧ w.present = true ∧ w.stop = false
            ∨ bay.state = .charging ∧ w.present = true ∧ w.stop = false ∧ 200 ≤ w.power ∧ bay.lowStart = none
            ∨ bay.state = .sated ∧ w.present = true ∧ w.stop = false ∧ w.power ≤ 500 ∧ bay.highCount = 0 →
          served { bay with power := w.power }))
    ∧ (payloadByte a.payload 0 = 1 → r.link = .named → r.missed < 3 → ∀ i, target = .string i →
      r.resend.grant = none → r.resend.park = false → r.resend.latch = false → r.resend.setpoint = none →
      exec (.answerReceived a) s = .next { s with
        link.bus := .idle,
        link.recs := s.link.recs.set target.ix { r with missed := 0, resend := ResendSet.empty },
        link.urgent := if r.resend.cap = some .urgent then joinAt cap s.link.urgent else s.link.urgent,
        link.ordinary := match r.resend.cap with
          | some .urgent => dropFrames .cap (some target) s.link.ordinary
          | some .ordinary => joinAt cap s.link.ordinary
          | none => s.link.ordinary,
        store.strings := s.store.strings.set i { s.stringOf i with
          output := some (payloadNat a.payload 1 4), fault := (payloadByte a.payload 5).toNat } })
    ∧ (payloadByte a.payload 0 = 1 → r.link = .named → r.missed < 3 → target = .store →
      ∃ t, exec (.answerReceived a) s = .next t ∧ t.link.bus = .idle ∧ (t.recOf .store).missed = 0
        ∧ (t.recOf .store).resend = ResendSet.empty
        ∧ (∀ lane, r.resend.setpoint = some lane → ∃ e ∈ (if lane = .urgent then t.link.urgent
            else t.link.ordinary), e.frame = ⟨some .store, .setpoint (t.recOf .store).issuedSetpoint⟩))

/-! ## Sweeps and slots -/

/-- R151: the visits of a sweep (step 3), and a sweep, by WAKE and by an expiry of the sweep timer, over a board without a
FILLED slot and lists without news, which changes nothing. -/
def Obligations.SweepsVisitEverySlotOnce : Prop :=
  (∀ last : Fin 48, ((sweepOrder last).map (·.1) = List.range 48)
    ∧ (∀ i : Fin 48, ((sweepOrder last).map (·.2)).count i = 1)
    ∧ ((sweepOrder last).map (·.2)).head? = some (last + 1)
    ∧ ((sweepOrder last).map (·.2)).getLast? = some last
    ∧ (∀ (n : Nat) (h : n + 1 < 48), ((sweepOrder last).map (·.2))[n + 1]? = some (last + 2 + ⟨n, by omega⟩)))
  ∧ ∀ (value : Word) (s : State), s.Quiet → s.xchg.sweeping = none → s.xchg.wakePending = false → s.restartDue = none →
    (∀ i : Fin 48, s.xchg.mem.word (slotBase i) ≠ slotFilled) →
    s.xchg.mem.word 0x0F01 = s.rcpt.readMark →
    s.xchg.mem.word 0x0E00 = s.rcpt.short.seen → s.xchg.mem.word 0x0E80 = s.rcpt.long.seen →
    (∀ c, s.rcpt.short.copies.head? = some c → c.skip = false) →
    (∀ c, s.rcpt.long.copies.head? = some c → c.skip = false) →
    exec (.wake value [] []) s = .next s ∧ (s.xchg.timersOn = true → exec (.sweepTimer [] []) s = .next s)

/-- R136, R143, R144, R133, R134, R135: a sweep, by WAKE or by the sweep timer, over a board without a FILLED slot and
without an UNBILLED record. A valid read mark is taken, by the threshold that the last placement took; an invalid one is not.
A write index that fails a test of R133 is not taken; one that brings a single entry has it copied and screened. -/
def Obligations.SweepTakesTheHostsIndexes : Prop :=
  ∀ (c : Instr) (value : Word) (s : State), s.SweepReady → s.xchg.mem.filledOnly [] →
    (∀ x ∈ s.sess.table, x.isOpen = true) →
    c = .wake value [] [] ∨ c = .sweepTimer [] [] ∧ s.xchg.timersOn = true →
    (∀ entry, s.rcpt.short.copies.head? = some entry → entry.skip = false) →
    (∀ entry, s.rcpt.long.copies.head? = some entry → entry.skip = false) →
    (s.xchg.mem.word 0x0E00 = s.rcpt.short.seen → s.xchg.mem.word 0x0E80 = s.rcpt.long.seen →
      let new := s.xchg.mem.word 0x0F01
      ((s.rcpt.write - s.rcpt.readMark).toNat < (new - s.rcpt.readMark).toNat → exec c s = .next s)
      ∧ ((new - s.rcpt.readMark).toNat ≤ (s.rcpt.write - s.rcpt.readMark).toNat → new ≠ s.rcpt.readMark →
        exec c s = .next { s with
          rcpt.readMark := new, rcpt.unread := s.rcpt.unread.drop (new - s.rcpt.readMark).toNat,
          rcpt.threshold := s.rcpt.threshold && decide (s.rcpt.noticeThreshold ≤ (s.rcpt.write - new).toNat),
          rcpt.linger := if s.rcpt.write = new then none else s.rcpt.linger }))
    ∧ (∀ long : Bool, s.xchg.mem.word 0x0F01 = s.rcpt.readMark →
        s.xchg.mem.word (offerBase (!long)) = (s.offers (!long)).seen →
      let l := s.offers long
      let new := s.xchg.mem.word (offerBase long)
      let slip := (s.xchg.mem.word (offerEntry long l.seen)).toNat
      let bad := 159 < slip ∨ (if long then slip < 128 else 128 ≤ slip)
        ∨ (∃ entry ∈ s.rcpt.short.copies ++ s.rcpt.long.copies, entry.skip = false ∧ entry.slip = slip)
        ∨ (∃ entry ∈ s.rcpt.unread, entry.slip = slip)
      ((if long then 32 else 64) < (new - l.read).toNat ∨ (new - l.read).toNat < (l.seen - l.read).toNat →
        exec c s = .next s)
      ∧ ((new - l.read).toNat ≤ (if long then 32 else 64) → (l.seen - l.read).toNat ≤ (new - l.read).toNat →
          new = l.seen + 1 →
        (¬ bad → exec c s = .next (s.setOffers long ⟨l.read, new, l.copies ++ [⟨slip, false⟩]⟩))
        ∧ (bad → l.copies ≠ [] → exec c s = .next { s.setOffers long ⟨l.read, new, l.copies ++ [⟨slip, true⟩]⟩ with
            rcpt.badOffers := s.rcpt.badOffers + 1 })
        ∧ (bad → l.copies = [] →
          ∃ m, exec c s = .next { s.setOffers long ⟨l.read + 1, new, []⟩ with
              rcpt.badOffers := s.rcpt.badOffers + 1, xchg.mem := m }
            ∧ m.word (offerBase long + 1) = l.read + 1
            ∧ ∀ a, a < 2 * (offerBase long + 1) ∨ 2 * (offerBase long + 2) ≤ a → m.read a = s.xchg.mem.read a)))

/-- R147, R151, R152, R153, R154, R155, R127, R150: a sweep, by WAKE or by the sweep timer, over a board with one FILLED
slot. The host's words are in the memory when the sweep starts. A request whose check fails is refused MALFORMED and one
whose kind word names no kind UNKNOWN_KIND, also when it has to give back a holder place. A long request that finds the
holder full stays FILLED. An accepted SET_CLOCK takes effect. The rows SET_SITE and SET_TARIFF with a table that does not lie
within one host area are refused MALFORMED (R170). -/
def Obligations.SweepsTakeFilledSlots : Prop :=
  (∀ (value : Word) (ws : List HostWrite) (arr : List SweepArrival) (s : State), s.inReset = false →
    exec (.wake value ws arr) s = exec (.wake value [] arr) (s.hostWords ws)
    ∧ exec (.sweepTimer ws arr) s = exec (.sweepTimer [] arr) (s.hostWords ws)
    ∧ (∀ w : HostWrite, (s.hostWords [w]).xchg.mem.word w.addr.toNat = w.value
        ∧ ∀ a, a < 2 * w.addr.toNat ∨ 2 * (w.addr.toNat + 1) ≤ a →
            (s.hostWords [w]).xchg.mem.read a = s.xchg.mem.read a))
  ∧ (∀ (c : Instr) (value : Word) (i : Fin 48) (s : State), s.SweepReady → s.ListsAsSeen → s.xchg.mem.filledOnly [i] →
      s.xchg.mem.word (slotBase i) = slotFilled →
      c = .wake value [] [] ∨ c = .sweepTimer [] [] ∧ s.xchg.timersOn = true →
    let kind := s.xchg.mem.word (slotBase i + 1)
    let ticket := s.xchg.mem.word (slotBase i + 3)
    let body := s.xchg.mem.words (slotBase i + 5) 24
    let checked := s.xchg.mem.word (slotBase i + 4) = xorWords body
    let paired := s.xchg.mem.word (slotBase i + 2) = ~~~kind
    let refusedWith := fun (reason : Reason) => ∃ m, exec c s = .next { s with
          xchg.mem := m, xchg.lastSlot := i, xchg.attn := s.xchg.attn ||| Attention.slot.bit }
        ∧ AnswerIn m i ticket (.refused reason) ∧ ∀ a, outsideSlot i a → m.read a = s.xchg.mem.read a
    (¬ paired → refusedWith .malformed)
    ∧ (paired → ¬ checked → (∀ k, Kind.ofCode kind = some k → k.isLong = false) → refusedWith .malformed)
    ∧ (paired → ¬ checked → (∃ p : Fin 8, s.xchg.holder[p] = none) → refusedWith .malformed)
    ∧ (paired → checked → Kind.ofCode kind = none → refusedWith .unknownKind)
    ∧ (paired → (∃ k, Kind.ofCode kind = some k ∧ k.isLong = true) → (∀ p : Fin 8, s.xchg.holder[p] ≠ none) →
        exec c s = .next s)
    ∧ (paired → checked → kind = Kind.setClock.code → s.price.locked = false →
        -50400 ≤ (bodyDWord body 2).toInt → (bodyDWord body 2).toInt ≤ 50400 →
      ∃ m, exec c s = .next { s with
          xchg.mem := m, xchg.lastSlot := i, xchg.attn := s.xchg.attn ||| Attention.slot.bit,
          xchg.clock := (bodyDWord body 0).toNat, xchg.offset := (bodyDWord body 2).toInt,
          meter := if (bodyDWord body 0).toNat / 900 = s.xchg.clock / 900 then s.meter
            else { s.meter with
              used := 0, residue := 0, exceeded := false, intervalStart := (bodyDWord body 0).toNat / 900 * 900 } }
        ∧ AnswerIn m i ticket (.done .none (dwordWords (bodyDWord body 0) ++ dwordWords (bodyDWord body 2)))
        ∧ ∀ a, outsideSlot i a → m.read a = s.xchg.mem.read a))
  ∧ (∀ (slot : Fin 48) (ticket offset : Word) (t : SiteSettings) (bands : List Band) (s : State), s.Quiet →
    (inHostArea offset.toNat 27 = false →
      ∃ m, exec (.setSite slot ticket offset t) s = .next { s with
          xchg.mem := m, xchg.lastSlot := slot, xchg.attn := s.xchg.attn ||| Attention.slot.bit }
        ∧ AnswerIn m slot ticket (.refused .malformed)
        ∧ ∀ a, outsideSlot slot a → outsideTable offset 27 a → m.read a = s.xchg.mem.read a)
    ∧ (inHostArea offset.toNat (2 + 5 * bands.length) = false → bands.length ≤ 255 →
        (∃ p : Fin 8, s.xchg.holder[p] = none) →
      ∃ m, exec (.setTariff slot ticket offset bands) s = .next { s with
          xchg.mem := m, xchg.lastSlot := slot, xchg.attn := s.xchg.attn ||| Attention.slot.bit }
        ∧ AnswerIn m slot ticket (.refused .malformed)
        ∧ ∀ a, outsideSlot slot a → outsideTable offset (2 + 5 * bands.length) a → m.read a = s.xchg.mem.read a))

/-- R152: a long request that finds all 8 holder places in use stays FILLED, and nothing else happens. -/
def Obligations.LongRequestsAreDeferred : Prop :=
  ∀ (slot : Fin 48) (ticket w : Word) (limit : DWord) (s : State), s.Quiet → (∀ p : Fin 8, s.xchg.holder[p] ≠ none) →
    exec (.stopSession slot ticket w) s = .next (s.fillSlot slot .stopSession ticket [w])
    ∧ exec (.parkBay slot ticket w) s = .next (s.fillSlot slot .parkBay ticket [w])
    ∧ exec (.returnBay slot ticket w) s = .next (s.fillSlot slot .returnBay ticket [w])
    ∧ exec (.enrolBay slot ticket w) s = .next (s.fillSlot slot .enrolBay ticket [w])
    ∧ exec (.lockTariff slot ticket) s = .next (s.fillSlot slot .lockTariff ticket [])
    ∧ exec (.unlockTariff slot ticket) s = .next (s.fillSlot slot .unlockTariff ticket [])
    ∧ exec (.gridHold slot ticket limit w) s = .next (s.fillSlot slot .gridHold ticket (bodyHold limit w))
    ∧ (∀ (k : Kind) (body : List Word), (s.fillSlot slot k ticket body).xchg.mem.word (slotBase slot) = slotFilled
        ∧ ∀ a, outsideSlot slot a → (s.fillSlot slot k ticket body).xchg.mem.read a = s.xchg.mem.read a)

/-- R153, step 3: the kinds not allowed in HALTED are refused NOT_RUNNING, and a long one gives its place back. -/
def Obligations.HaltedRefusesNotRunning : Prop :=
  ∀ (slot : Fin 48) (ticket w v : Word) (account : BitVec 128) (limit : DWord) (s : State), s.Quiet →
    s.site.run = .halted → (∃ p : Fin 8, s.xchg.holder[p] = none) →
    ∀ c ∈ [Instr.authorise slot ticket w account limit, .stopSession slot ticket w, .parkBay slot ticket w,
        .returnBay slot ticket w, .enrolBay slot ticket w, .gridHold slot ticket limit w, .cancel slot ticket w v],
      ∃ m, exec c s = .next { s with xchg.mem := m, xchg.attn := s.xchg.attn ||| Attention.slot.bit,
                                     xchg.lastSlot := slot }
        ∧ AnswerIn m slot ticket (.refused .notRunning) ∧ ∀ a, outsideSlot slot a → m.read a = s.xchg.mem.read a

/-- R155: an answer whose slot is no longer TAKEN, or holds another ticket, is lost and counted; no attention is raised
and the memory stays. One whose slot is TAKEN with the ticket is written over the body area, with SLOT attention. -/
def Obligations.AnswersAreWrittenOrLost : Prop :=
  ∀ (slot : Fin 48) (ticket : Word) (r : Reply) (s : State),
    (s.xchg.mem.word (slotBase slot) ≠ slotTaken ∨ s.xchg.mem.word (slotBase slot + 3) ≠ ticket →
      s.answerSlot slot ticket r = { s with xchg.lost := s.xchg.lost + 1 })
    ∧ (s.xchg.mem.word (slotBase slot) = slotTaken → s.xchg.mem.word (slotBase slot + 3) = ticket →
      ∃ m, s.answerSlot slot ticket r = { s with xchg.mem := m, xchg.attn := s.xchg.attn ||| Attention.slot.bit }
        ∧ AnswerIn m slot ticket r ∧ ∀ a, outsideSlot slot a → m.read a = s.xchg.mem.read a)

/-! ## Requests -/

/-- R150, R56, R127: an accepted SET_CLOCK. -/
def Obligations.SetClockSetsTheClock : Prop :=
  ∀ (slot : Fin 48) (ticket : Word) (clock offset : DWord) (s : State), s.Quiet →
    -50400 ≤ offset.toInt → offset.toInt ≤ 50400 →
    (s.price.locked = true → ((clock.toNat : Int) - s.xchg.clock ≤ 120 ∧ (s.xchg.clock : Int) - clock.toNat ≤ 120)
      ∧ (clock.toNat + offset.toInt - (s.xchg.clock + s.xchg.offset) ≤ 120
        ∧ s.xchg.clock + s.xchg.offset - (clock.toNat + offset.toInt) ≤ 120)) →
    ∃ m, exec (.setClock slot ticket clock offset) s = .next { s with
        xchg.mem := m, xchg.attn := s.xchg.attn ||| Attention.slot.bit, xchg.lastSlot := slot,
        xchg.clock := clock.toNat, xchg.offset := offset.toInt,
        meter := if clock.toNat / 900 = s.xchg.clock / 900 then s.meter
          else { s.meter with used := 0, residue := 0, exceeded := false, intervalStart := clock.toNat / 900 * 900 } }
      ∧ AnswerIn m slot ticket (.done .none (dwordWords clock ++ dwordWords offset))
      ∧ ∀ a, outsideSlot slot a → m.read a = s.xchg.mem.read a

/-- R166: an accepted SET_SITE sets every field at once and is answered DONE; changed fixed fields make a site restart
due. Its live effects, in the order of log entry 35: a hold line limit that lowers the effective limit of an active line asks
anew (R88); a changed reserve floor has the mark tested and the condition derived at once (R103, R101, log entry 51); a changed
battery limit, or a new condition, has the allowances formed and the setpoint trimmed (R105, R106); FREE authority turned off
ends the pending openings (R37). -/
def Obligations.SetSiteSetsTheFields : Prop :=
  ∀ (slot : Fin 48) (ticket offset : Word) (t : SiteSettings) (s : State), s.Quiet →
    inHostArea offset.toNat 27 = true → t.wellFormed = true → Machine.SiteSettings.inRange t = true →
    (s.price.locked = true → t.idleGrace = s.site.settings.idleGrace) →
    (fixedOf t = s.site.inForce ∨ s.site.run = .halted ∨ ∀ x ∈ s.sess.table, x.isOpen = false) →
    ∃ u, exec (.setSite slot ticket offset t) s = .next u
      ∧ u.site = { s.site with settings := t, siteSet := true }
      ∧ u.restartDue = (if fixedOf t = s.site.inForce then s.restartDue else some s.site.run)
      ∧ AnswerIn u.xchg.mem slot ticket (.done .none [])
      ∧ (∀ a, outsideSlot slot a → outsideTable offset 27 a → outsidePage a → u.xchg.mem.read a = s.xchg.mem.read a)
      ∧ u.sess.table = s.sess.table ∧ u.sess.vouchers = s.sess.vouchers ∧ u.meter = s.meter ∧ u.price = s.price
      ∧ u.nv = s.nv ∧ u.rcpt = s.rcpt ∧ u.grid = s.grid ∧ u.xchg.clock = s.xchg.clock ∧ u.xchg.offset = s.xchg.offset
      ∧ u.xchg.mask = s.xchg.mask ∧ u.xchg.holder = s.xchg.holder ∧ u.allot.grants = s.allot.grants
      ∧ (s.hold.lineActive = false → u.hold = s.hold)
      ∧ (s.hold.lineActive = true →
        let limitOf := fun (line : Nat) => match s.hold.request with
          | none => line
          | some r => min line r.limit
        let lowered := limitOf t.holdLineLimit < limitOf s.site.settings.holdLineLimit
        (lowered → s.hold.state = .met →
          u.hold = { s.hold with state := .requested, deadline := some (s.elapsed + 60), good := 0, ack := false }
          ∧ u.xchg.attn &&& Attention.grid.bit ≠ 0)
        ∧ (lowered → s.hold.state = .requested → u.hold = { s.hold with deadline := some (s.elapsed + 60), good := 0 })
        ∧ (lowered → s.hold.state = .missed → u.hold = { s.hold with good := 0 })
        ∧ (¬ lowered → u.hold = s.hold))
      ∧ (let old := s.site.settings
        let reserve := if t.reserveFloor = old.reserveFloor then s.store.reserve else match s.store.soc with
          | none => s.store.reserve
          | some c => if s.store.reserve then decide (c < t.reserveFloor + 20) else decide (c ≤ t.reserveFloor)
        let condition := if t.reserveFloor = old.reserveFloor then s.store.condition
          else conditionOf s.store.link s.store.gridAbsent s.store.fault reserve
        let formed := condition ≠ s.store.condition ∨ t.dischargeLimit ≠ old.dischargeLimit
          ∨ t.chargeLimit ≠ old.chargeLimit
        let discharge := dischargeAllowance condition s.store.holdMissed reserve t.dischargeLimit (s.store.rating * 100)
        let charge := chargeAllowance condition t.chargeLimit (s.store.rating * 100)
        (formed → u.store = { s.store with
          reserve := reserve, condition := condition, discharge := discharge, charge := charge })
        ∧ (¬ formed → u.store = { s.store with reserve := reserve } ∧ u.allot = s.allot)
        ∧ (condition ≠ s.store.condition → u.xchg.attn &&& Attention.store.bit ≠ 0)
        ∧ (∀ w, formed → condition ≠ .backup → s.store.condition ≠ .backup → s.allot.setpoint = .watts w →
          let w' := if (discharge : Int) < w then (discharge : Int) else if w < -(charge : Int) then -(charge : Int) else w
          u.allot = { s.allot with
            setpoint := .watts w', stance := if w' ≠ w ∧ w' = 0 then .idle else s.allot.stance }
          ∧ (w' ≠ w → s.site.run = .run → (s.recOf .store).link = .named → (s.recOf .store).issuedSetpoint ≠ .watts w' →
            ∃ e ∈ u.link.urgent ++ u.link.ordinary, e.frame = ⟨some .store, .setpoint (.watts w')⟩)))
      ∧ (∀ b, u.bayOf b = if t.freeAuthority = 1 then s.bayOf b else { s.bayOf b with freePending := false })

/-- R34, R30: AUTHORISE opens a session for a PLUGGED bay. The round that follows may admit the bay at once. -/
def Obligations.AuthoriseOpensASession : Prop :=
  ∀ (slot : Fin 48) (ticket bay : Word) (account : BitVec 128) (limit : DWord) (b : BayIx) (n : Nat) (s : State),
    s.Quiet → s.site.run = .run → bay.toNat = b.val + 1 → (s.bayOf b).state = .plugged →
    (s.bayOf b).parkPending = false → s.price.bands ≠ [] → s.price.unlockPending = false →
    s.price.sessions.valid = true → s.price.sessions.next = some n → s.sess.table.length < 32 →
    ∃ t, exec (.authorise slot ticket bay account limit) s = .next t
      ∧ (∃ x ∈ t.sess.table, x.number = n ∧ x.isOpen = true ∧ x.bay = b ∧ x.authority = .account
          ∧ x.account = some account ∧ x.limit = (if limit = 0 then none else some limit.toNat)
          ∧ x.opened = s.xchg.clock ∧ x.total = 0)
      ∧ t.sess.table.length = s.sess.table.length + 1
      ∧ (t.bayOf b).session = some n ∧ (t.bayOf b).latch = .lock
      ∧ ((t.bayOf b).state = .awaitPower ∨ (t.bayOf b).state = .charging)
      ∧ t.price.sessions.next = some (n + 1)
      ∧ AnswerIn t.xchg.mem slot ticket (.done .none (showDWord n))
      ∧ (∀ a, outsideSlot slot a → outsidePage a → t.xchg.mem.read a = s.xchg.mem.read a)
      ∧ t.sess.vouchers = s.sess.vouchers ∧ t.meter = s.meter ∧ t.grid = s.grid ∧ t.rcpt = s.rcpt ∧ t.nv = s.nv
      ∧ t.hold = s.hold ∧ t.xchg.clock = s.xchg.clock ∧ t.xchg.mask = s.xchg.mask ∧ t.xchg.holder = s.xchg.holder

/-- R45, R31, R71: STOP_SESSION is held, in the lowest empty place (log entry 10), and the bay's session ends with
STOPPED_BY_REQUEST. -/
def Obligations.StopSessionEndsTheSession : Prop :=
  ∀ (slot : Fin 48) (ticket bay : Word) (b : BayIx) (p : Fin 8) (s : State),
    s.Quiet → s.site.run = .run → bay.toNat = b.val + 1 → (s.bayOf b).state.eligible = true →
    s.freePlace = some p →
    ∃ t, exec (.stopSession slot ticket bay) s = .next t
      ∧ (t.bayOf b).state = .ending ∧ t.grantOf b = 0 ∧ b ∉ t.allot.waitList
      ∧ (∀ x ∈ t.sess.table, x.isOpen = true → x.bay = b → x.cause = some .stoppedByRequest)
      ∧ t.sess.table.length = s.sess.table.length
      ∧ TakenIn t.xchg.mem slot ticket ∧ t.xchg.holder[p] = some (heldAs slot ticket .stopSession [bay])
      ∧ (∀ q : Fin 8, q ≠ p → t.xchg.holder[q] = s.xchg.holder[q])
      ∧ (∀ a, outsideSlot slot a → outsidePage a → t.xchg.mem.read a = s.xchg.mem.read a)
      ∧ t.sess.vouchers = s.sess.vouchers ∧ t.meter = s.meter ∧ t.grid = s.grid ∧ t.rcpt = s.rcpt ∧ t.price = s.price
      ∧ t.hold = s.hold ∧ t.xchg.clock = s.xchg.clock ∧ t.xchg.mask = s.xchg.mask

/-- R46, R21, R17: PARK_BAY for a bay that can be parked at once queues PARK in the urgent lane and is held. For a PARKED
bay it is answered at once. The place is the lowest empty one (log entry 10). -/
def Obligations.ParkBayAsksThePark : Prop :=
  ∀ (slot : Fin 48) (ticket bay : Word) (b : BayIx) (p : Fin 8) (s : State),
    s.Quiet → s.site.run = .run → bay.toNat = b.val + 1 → s.freePlace = some p →
    (((s.bayOf b).state = .vacant ∨ (s.bayOf b).state = .plugged ∨ (s.bayOf b).state = .faulted) →
      (s.bayOf b).session = none → (s.bayOf b).parkPending = false → (s.recOf (.bay b)).link = .named →
      ∃ m, exec (.parkBay slot ticket bay) s = .next { s with
          xchg.mem := m, xchg.lastSlot := slot,
          xchg.holder := s.xchg.holder.set p (some (heldAs slot ticket .parkBay [bay])),
          sess.bays := s.sess.bays.set b { s.bayOf b with parkPending := true },
          link.urgent := joinAt ⟨⟨some (.bay b), .park⟩, false, false⟩ (dropFrames .grant (some (.bay b)) s.link.urgent),
          link.ordinary := dropFrames .grant (some (.bay b)) s.link.ordinary }
        ∧ TakenIn m slot ticket ∧ ∀ a, outsideSlot slot a → m.read a = s.xchg.mem.read a)
    ∧ ((s.bayOf b).state = .parked →
      ∃ m, exec (.parkBay slot ticket bay) s = .next { s with
          xchg.mem := m, xchg.lastSlot := slot, xchg.attn := s.xchg.attn ||| Attention.slot.bit }
        ∧ AnswerIn m slot ticket (.done .none []) ∧ ∀ a, outsideSlot slot a → m.read a = s.xchg.mem.read a)

/-- R46, R11, R25: RETURN_BAY for a PARKED bay makes its record UNNAMED, queues a WHO and is held, in the lowest empty place
(log entry 10). -/
def Obligations.ReturnBayStartsAnEnrolment : Prop :=
  ∀ (slot : Fin 48) (ticket bay : Word) (b : BayIx) (p : Fin 8) (s : State),
    s.Quiet → s.site.run = .run → bay.toNat = b.val + 1 → s.freePlace = some p → (s.bayOf b).state = .parked →
    (s.recOf (.bay b)).fit = .isIn →
    ∃ t, exec (.returnBay slot ticket bay) s = .next t
      ∧ (t.recOf (.bay b)).link = .unnamed ∧ (t.recOf (.bay b)).tag = 0 ∧ (t.bayOf b).state = .seeking
      ∧ (∃ e ∈ t.link.ordinary, e.frame = ⟨some (.bay b), .who⟩)
      ∧ (∀ target, target ≠ .bay b → t.recOf target = s.recOf target)
      ∧ (∀ c, c ≠ b → t.bayOf c = s.bayOf c)
      ∧ TakenIn t.xchg.mem slot ticket ∧ t.xchg.holder = s.xchg.holder.set p (some (heldAs slot ticket .returnBay [bay]))
      ∧ (∀ a, outsideSlot slot a → outsidePage a → t.xchg.mem.read a = s.xchg.mem.read a)
      ∧ t.sess.table = s.sess.table ∧ t.sess.vouchers = s.sess.vouchers ∧ t.meter = s.meter ∧ t.allot = s.allot
      ∧ t.hold = s.hold ∧ t.grid = s.grid ∧ t.store = s.store ∧ t.price = s.price ∧ t.rcpt = s.rcpt ∧ t.site = s.site

/-- R11: ENROL_BAY for a bay address that is not above the fitted count makes its record IN and UNNAMED with no missed
polls, queues a WHO and is held; one for a bay above the count is answered NO_ANSWER and changes no record. The
place is the lowest empty one (log entry 10). -/
def Obligations.EnrolBayStartsARollCall : Prop :=
  ∀ (slot : Fin 48) (ticket address : Word) (target : Target) (p : Fin 8) (s : State),
    s.Quiet → s.site.run = .run → Target.ofAddress address.toNat = some target → s.freePlace = some p →
    (s.isBeyond target = false →
      ∃ t, exec (.enrolBay slot ticket address) s = .next t
        ∧ (t.recOf target).fit = .isIn ∧ (t.recOf target).link = .unnamed ∧ (t.recOf target).missed = 0
        ∧ (∃ e ∈ t.link.ordinary, e.frame = ⟨some target, .who⟩)
        ∧ (∀ other, other ≠ target → (t.recOf other).link = (s.recOf other).link)
        ∧ TakenIn t.xchg.mem slot ticket
        ∧ t.xchg.holder = s.xchg.holder.set p (some (heldAs slot ticket .enrolBay [address]))
        ∧ (∀ a, outsideSlot slot a → outsidePage a → t.xchg.mem.read a = s.xchg.mem.read a)
        ∧ t.sess.table = s.sess.table ∧ t.sess.vouchers = s.sess.vouchers ∧ t.meter = s.meter ∧ t.hold = s.hold
        ∧ t.grid = s.grid ∧ t.price = s.price ∧ t.rcpt = s.rcpt ∧ t.site = s.site)
    ∧ (s.isBeyond target = true →
      ∃ m, exec (.enrolBay slot ticket address) s = .next { s with
          xchg.mem := m, xchg.lastSlot := slot, xchg.attn := s.xchg.attn ||| Attention.slot.bit }
        ∧ AnswerIn m slot ticket (.done .noAnswer []) ∧ ∀ a, outsideSlot slot a → m.read a = s.xchg.mem.read a)

/-- R43: an accepted POST_VOUCHER and an accepted WITHDRAW_VOUCHER. Kind 1 is an amount, kind 2 a percentage (R169). -/
def Obligations.VouchersArePostedAndWithdrawn : Prop :=
  (∀ (slot : Fin 48) (ticket : Word) (code : BitVec 64) (kind value : Word) (expiry : DWord) (s : State),
    s.Quiet → codeIsDigits code = true → s.xchg.clock < expiry.toNat →
    (kind = 1 ∧ 1 ≤ value.toNat ∨ kind = 2 ∧ value.toNat ≤ 100) →
    (∀ v ∈ s.sess.vouchers, v.code ≠ code) → s.sess.vouchers.length < 64 →
    ∃ m, exec (.postVoucher slot ticket code kind value expiry) s = .next { s with
        xchg.mem := m, xchg.attn := s.xchg.attn ||| Attention.slot.bit, xchg.lastSlot := slot,
        sess.vouchers := s.sess.vouchers
          ++ [⟨code, if kind = 1 then .amount else .percent, value.toNat, expiry.toNat, false⟩] }
      ∧ AnswerIn m slot ticket (.done .none []) ∧ ∀ a, outsideSlot slot a → m.read a = s.xchg.mem.read a)
  ∧ (∀ (slot : Fin 48) (ticket : Word) (code : BitVec 64) (s : State), s.Quiet →
    (∃ v ∈ s.sess.vouchers, v.code = code) → (∀ v ∈ s.sess.vouchers, v.code = code → v.inUse = false) →
    ∃ m, exec (.withdrawVoucher slot ticket code) s = .next { s with
        xchg.mem := m, xchg.attn := s.xchg.attn ||| Attention.slot.bit, xchg.lastSlot := slot,
        sess.vouchers := s.sess.vouchers.filter (fun v => decide (v.code ≠ code)) }
      ∧ AnswerIn m slot ticket (.done .none []) ∧ ∀ a, outsideSlot slot a → m.read a = s.xchg.mem.read a)

/-- R119, R125, R126, R128: the three store-writing requests are held, in the lowest empty place (log entry 10), and their
write begins at once when the store is idle; otherwise it waits at the end of the queue. -/
def Obligations.StoreRequestsAskTheirWrite : Prop :=
  ∀ (slot : Fin 48) (ticket offset : Word) (bands : List Band) (p : Fin 8) (s : State), s.Quiet → s.freePlace = some p →
    (inHostArea offset.toNat (2 + 5 * bands.length) = true → tariffInRange bands = true → s.price.locked = false →
      ∃ m, exec (.setTariff slot ticket offset bands) s = .next { s with
          xchg.mem := m, xchg.lastSlot := slot,
          xchg.holder := s.xchg.holder.set p (some (heldAs slot ticket .setTariff [offset, natWord (2 + 5 * bands.length)])),
          price.active := if s.price.active = none then some ⟨.tariff (some p) bands,
            ⟨bands, s.price.generation + 1, s.price.locked, s.price.lockCount⟩⟩ else s.price.active,
          price.queue := if s.price.active = none then [] else s.price.queue ++ [.tariff (some p) bands] }
        ∧ TakenIn m slot ticket
        ∧ ∀ a, outsideSlot slot a → outsideTable offset (2 + 5 * bands.length) a → m.read a = s.xchg.mem.read a)
    ∧ (s.price.locked = false → s.price.bands ≠ [] →
      ∃ m, exec (.lockTariff slot ticket) s = .next { s with
          xchg.mem := m, xchg.lastSlot := slot,
          xchg.holder := s.xchg.holder.set p (some (heldAs slot ticket .lockTariff [])),
          price.active := if s.price.active = none then some ⟨.lock (some p),
            ⟨s.price.bands, s.price.generation, true, s.price.lockCount + 1⟩⟩ else s.price.active,
          price.queue := if s.price.active = none then [] else s.price.queue ++ [.lock (some p)] }
        ∧ TakenIn m slot ticket ∧ ∀ a, outsideSlot slot a → m.read a = s.xchg.mem.read a)
    ∧ (s.price.locked = true → s.sess.table = [] →
      ∃ m, exec (.unlockTariff slot ticket) s = .next { s with
          xchg.mem := m, xchg.lastSlot := slot,
          xchg.holder := s.xchg.holder.set p (some (heldAs slot ticket .unlockTariff [])),
          price.unlockPending := if s.price.active = none then true else s.price.unlockPending,
          price.active := if s.price.active = none then some ⟨.unlock (some p),
            ⟨[], s.price.generation + 1, false, s.price.lockCount + 1⟩⟩ else s.price.active,
          price.queue := if s.price.active = none then [] else s.price.queue ++ [.unlock (some p)] }
        ∧ TakenIn m slot ticket ∧ ∀ a, outsideSlot slot a → m.read a = s.xchg.mem.read a)

/-- R131: an accepted SET_COUNTERS in HALTED. -/
def Obligations.SetCountersGivesTheNumbers : Prop :=
  ∀ (slot : Fin 48) (ticket : Word) (session receipt : DWord) (s : State), s.Quiet → s.site.run = .halted →
    session.toNat ≤ 4294967232 → receipt.toNat ≤ 4294967232 →
    (s.price.damaged.session = false → ∀ n, s.price.sessions.next = some n → n ≤ session.toNat) →
    (s.price.damaged.receipt = false → ∀ n, s.price.receipts.next = some n → n ≤ receipt.toNat) →
    ∃ t, exec (.setCounters slot ticket session receipt) s = .next t
      ∧ t.price.sessions = ⟨some session.toNat, s.price.sessions.base, false, some session.toNat⟩
      ∧ t.price.receipts = ⟨some receipt.toNat, s.price.receipts.base, false, some receipt.toNat⟩
      ∧ t.price.damaged = { s.price.damaged with session := false, receipt := false }
      ∧ t.blockWaits .session session.toNat = true ∧ t.blockWaits .receipt receipt.toNat = true
      ∧ t.site = { s.site with countersMissing := false }
      ∧ AnswerIn t.xchg.mem slot ticket (.done .none [])
      ∧ (∀ a, outsideSlot slot a → t.xchg.mem.read a = s.xchg.mem.read a)
      ∧ t.xchg.attn = s.xchg.attn ||| Attention.slot.bit ∧ t.xchg.holder = s.xchg.holder
      ∧ t.price.bands = s.price.bands ∧ t.price.generation = s.price.generation ∧ t.price.locked = s.price.locked
      ∧ t.link = s.link ∧ t.sess = s.sess ∧ t.meter = s.meter ∧ t.allot = s.allot ∧ t.hold = s.hold ∧ t.grid = s.grid
      ∧ t.store = s.store ∧ t.nv = s.nv ∧ t.rcpt = s.rcpt

/-- R87, R88: GRID_HOLD sets the request source; with no source active before, in CLEAR, the hold state becomes REQUESTED
with a deadline 60 s ahead, and the request is held, in the lowest empty place (log entry 10). -/
def Obligations.GridHoldSetsTheRequestSource : Prop :=
  ∀ (slot : Fin 48) (ticket : Word) (limit : DWord) (minutes : Word) (p : Fin 8) (s : State),
    s.Quiet → s.site.run = .run → s.freePlace = some p → limit.toNat ≤ 1000000 → 1 ≤ minutes.toNat →
    minutes.toNat ≤ 240 →
    (∃ t asker, exec (.gridHold slot ticket limit minutes) s = .next t
      ∧ t.hold.request = some ⟨limit.toNat, s.elapsed + 60 * minutes.toNat, asker⟩)
    ∧ (s.hold.lineActive = false → s.hold.request = none → s.hold.state = .clear →
      ∃ (m : Memory) (x : ExchangeUnit), exec (.gridHold slot ticket limit minutes) s = .next { s with
          hold := ⟨false, some ⟨limit.toNat, s.elapsed + 60 * minutes.toNat, some p⟩, .requested, some (s.elapsed + 60),
            0, false⟩,
          xchg := x }
        ∧ TakenIn m slot ticket ∧ (∀ a, outsideSlot slot a → m.read a = s.xchg.mem.read a)
        ∧ TakenIn x.mem slot ticket
        ∧ PageAsked { s.xchg with
            mem := m, lastSlot := slot, attn := s.xchg.attn ||| Attention.grid.bit,
            holder := s.xchg.holder.set p (some (heldAs slot ticket .gridHold (bodyHold limit minutes))) } x s.elapsed)

/-- R157: CANCEL of a held request whose store write is not in progress: its place is free, its answer CANCELLED is
written or lost (R155), and the CANCEL is answered DONE. The withdrawals: a queued store write is dropped (R128); park pending
becomes no, and the PARK leaves the lane and the resend set, and on the line it is marked as withdrawn (R21, R46); the request
source ends (R87, R92). Of two held requests with one slot and ticket it takes the one in the lower place (log entry 10). -/
def Obligations.CancelWithdrawsTheHeldRequest : Prop :=
  ∀ (slot named : Fin 48) (ticket slotWord namedTicket : Word) (p : Fin 8) (h : Held) (s : State),
    s.Quiet → s.site.run = .run → slotWord.toNat = named.val → named ≠ slot →
    s.placeOf named.val namedTicket = some p → s.xchg.holder[p] = some h → s.writing p = false →
    ∃ t, exec (.cancel slot ticket slotWord namedTicket) s = .next t
      ∧ t.xchg.holder[p] = none ∧ (∀ q : Fin 8, q ≠ p → t.xchg.holder[q] = s.xchg.holder[q])
      ∧ AnswerIn t.xchg.mem slot ticket (.done .none [slotWord, namedTicket])
      ∧ (TakenIn s.xchg.mem named namedTicket → AnswerIn t.xchg.mem named namedTicket (.refused .cancelled)
          ∧ t.xchg.lost = s.xchg.lost)
      ∧ (¬ TakenIn s.xchg.mem named namedTicket → t.xchg.lost = s.xchg.lost + 1)
      ∧ (∀ a, outsideSlot slot a → outsideSlot named a → outsidePage a → t.xchg.mem.read a = s.xchg.mem.read a)
      ∧ (h.kind = Kind.gridHold.code → t.hold.request = none
          ∧ (s.hold.request ≠ none → s.hold.lineActive = false → t.hold.state = .clear ∧ t.hold.deadline = none
            ∧ t.hold.good = 0)
          ∧ (s.hold.lineActive = true → t.hold = { s.hold with request := none }))
      ∧ (h.kind ≠ Kind.gridHold.code → t.hold = s.hold ∧ t.allot = s.allot ∧ t.store = s.store)
      ∧ (∀ b, h.kind = Kind.parkBay.code → (bodyWord h.body 0).toNat = b.val + 1 →
          t.bayOf b = { s.bayOf b with parkPending := false }
          ∧ t.recOf (.bay b) = { s.recOf (.bay b) with resend := { (s.recOf (.bay b)).resend with park := false } }
          ∧ t.link.urgent = dropFrames .park (some (.bay b)) s.link.urgent ∧ t.link.ordinary = s.link.ordinary
          ∧ (∀ x, x.frame = ⟨some (.bay b), .park⟩ →
              (s.link.bus = .awaiting x → t.link.bus = .awaiting { x with withdrawn := true })
              ∧ (s.link.bus = .sending x → t.link.bus = .sending { x with withdrawn := true })))
      ∧ (h.kind ≠ Kind.parkBay.code → h.kind ≠ Kind.gridHold.code → t.link = s.link ∧ t.sess.bays = s.sess.bays)
      ∧ t.price.active = s.price.active
      ∧ t.price.queue = (if h.kind = Kind.setTariff.code ∨ h.kind = Kind.lockTariff.code ∨ h.kind = Kind.unlockTariff.code
          then s.price.queue.filter (fun j => decide (j.place ≠ some p)) else s.price.queue)
      ∧ t.sess.table = s.sess.table ∧ t.sess.vouchers = s.sess.vouchers ∧ t.meter = s.meter ∧ t.grid = s.grid
      ∧ t.price.bands = s.price.bands ∧ t.rcpt = s.rcpt ∧ t.site = s.site ∧ t.xchg.mask = s.xchg.mask

/-! ## Clock, timers, store and page -/

/-- R150, R56: one second of the site clock (elapsed time: log entry 32), and the end of a demand interval, once the site
clock has passed it: the interval that holds the clock starts (log entry 19). -/
def Obligations.ClockAdvancesAndIntervalsEnd : Prop :=
  ∀ s : State, s.Quiet →
    exec .siteClockAdvance s = .next { s with xchg.clock := min 4294967295 (s.xchg.clock + 1), elapsed := s.elapsed + 1 }
    ∧ (s.meter.intervalStart + 900 ≤ s.xchg.clock → exec .intervalEnd s = .next { s with
        meter.used := 0, meter.residue := 0, meter.exceeded := false,
        meter.intervalStart := s.xchg.clock / 900 * 900 })
    ∧ (s.xchg.clock < s.meter.intervalStart + 900 → exec .intervalEnd s = .next s)

/-- R36, R44 and R144: the end of a cooldown, where a PLUGGED bay with a NAMED record is shown ENTER_CODE (R28); the minute
check of the vouchers' expiry; and the linger timer, which stops and raises RECEIPT for unread receipts. -/
def Obligations.CooldownsVouchersAndLingersEnd : Prop :=
  ∀ (b : BayIx) (e : Nat) (s : State), s.Quiet →
    ((s.bayOf b).cooldown = none → exec (.cooldownEnd b) s = .next s)
    ∧ ((s.bayOf b).cooldown = some e → s.xchg.clock < e → exec (.cooldownEnd b) s = .next s)
    ∧ ((s.bayOf b).cooldown = some e → e ≤ s.xchg.clock → exec (.cooldownEnd b) s = .next { s with
        sess.bays := s.sess.bays.set b { s.bayOf b with cooldown := none },
        link.ordinary := if (s.bayOf b).state = .plugged ∧ (s.recOf (.bay b)).link = .named ∧ s.site.run = .run
          then joinAt ⟨⟨some (.bay b), .show .enterCode⟩, false, false⟩ s.link.ordinary else s.link.ordinary })
    ∧ exec .voucherExpiryCheck s = .next { s with
        sess.vouchers := s.sess.vouchers.filter (fun v => v.inUse || decide (s.xchg.clock < v.expiry)) }
    ∧ (s.rcpt.linger = none → exec .lingerTimer s = .next s)
    ∧ (s.rcpt.linger = some e → s.elapsed < e → exec .lingerTimer s = .next s)
    ∧ (s.rcpt.linger = some e → e ≤ s.elapsed → exec .lingerTimer s = .next { s with
        rcpt.linger := none,
        xchg.attn := if s.rcpt.write = s.rcpt.readMark then s.xchg.attn
          else s.xchg.attn ||| Attention.receipt.bit })

/-- R13, R32, R35, R36, R39, R115, R116, R117, R120, R121, R122: what a POLL answer of a bay without a fault does to the bay's
OPEN session. With a vehicle present and no stop button: the first reading, a counter that fell (with its GRANT) and an
increment, each in AWAIT_POWER, CHARGING and SATED with the draw detection; the energy limit, the segment limit and the keypad.
In ENDING the answer is the final one, and the session closes with this reading included. The model's choice (log entry 7,
DEDUCED): the answer that itself brings the energy limit or the segment limit is not the final one, and leaves the bay in
ENDING. -/
def Obligations.BayPollsChargeTheSession : Prop :=
  (∀ (x : Exchange) (b : BayIx) (a : AnswerFrame) (s : State), GoodPoll s x (.bay b) a →
    let r := bayReport a.payload
    let bay := s.bayOf b
    let old := s.recOf (.bay b)
    let units := s.grantOf b / 100
    let lowered := units = 0 ∨ units < old.issuedGrant
    let grant : LaneEntry := ⟨⟨some (.bay b), .grant units⟩, false, false⟩
    let read : BayLink := { s.link with
      bus := .idle, recs := s.link.recs.set (Target.bay b).ix { old with missed := 0, energy := some r.energy } }
    let granted : BayLink := { read with
      recs := s.link.recs.set (Target.bay b).ix { old with missed := 0, energy := some r.energy, issuedGrant := units },
      urgent := if lowered then joinAt grant s.link.urgent else s.link.urgent,
      ordinary := if lowered then dropFrames .grant (some (.bay b)) s.link.ordinary
        else joinAt grant s.link.ordinary }
    let mapped := fun (f : Session → Session) =>
      s.sess.table.map (fun y => if y.isOpen = true ∧ y.bay = b then f y else y)
    let stays := fun (l : BayLink) (f : Session → Session) (after : BayRec) =>
      exec (.answerReceived a) s = .next { s with
        link := l, sess.bays := s.sess.bays.set b after, sess.table := mapped f }
    let moves := fun (l : BayLink) (f : Session → Session) (after : BayRec) =>
      ∃ xu, exec (.answerReceived a) s = .next { s with
          link := l, sess.bays := s.sess.bays.set b after, sess.table := mapped f, xchg := xu }
        ∧ PageAsked { s.xchg with attn := s.xchg.attn ||| Attention.bay.bit } xu s.elapsed
    let first : IdleFirst :=
      { band := s.bandNumber, generation := s.price.generation, grace := s.site.settings.idleGrace,
        price := match s.band with
          | none => 0
          | some band => band.2.idlePrice }
    let charged := fun (l : BayLink) (f : Session → Session) =>
      (bay.state = .awaitPower → stays l f { bay with power := r.power })
      ∧ (bay.state = .charging → 200 ≤ r.power → stays l f { bay with power := r.power, lowStart := none })
      ∧ (bay.state = .charging → r.power < 200 → bay.lowStart = none →
          stays l f { bay with power := r.power, lowStart := some s.xchg.clock })
      ∧ (∀ began, bay.state = .charging → r.power < 200 → bay.lowStart = some began → s.xchg.clock < began + 120 →
          stays l f { bay with power := r.power })
      ∧ (∀ began, bay.state = .charging → r.power < 200 → bay.lowStart = some began → began + 120 ≤ s.xchg.clock →
          moves l (fun y => { f y with idle :=
              ⟨y.idle.seconds, some s.elapsed, some (y.idle.first.getD first)⟩ })
            { bay with power := r.power, state := .sated, change := bay.change + 1, lowStart := none })
      ∧ (bay.state = .sated → r.power ≤ 500 ∨ bay.highCount = 0 →
          stays l f { bay with power := r.power, highCount := if r.power ≤ 500 then 0 else 1 })
      ∧ (bay.state = .sated → 500 < r.power → 1 ≤ bay.highCount →
          moves l (fun y => { f y with idle := match y.idle.running with
              | none => y.idle
              | some began => ⟨y.idle.seconds + (s.elapsed - began), none, y.idle.first⟩ })
            { bay with power := r.power, state := .charging, change := bay.change + 1, highCount := 0 })
    let closes := fun (f : Session → Session) => ∀ z, s.openSession b = some z → s.price.receipts.valid = false →
      let closed := closedRecord s.xchg.clock s.elapsed s.sess.vouchers (f z)
      closed.isVoid = false →
      ∃ t, exec (.answerReceived a) s = .next t ∧ t.sess.table = mapped (fun _ => closed)
        ∧ (t.bayOf b).state = (if r.present then .plugged else .vacant) ∧ (t.bayOf b).session = none
        ∧ (t.bayOf b).latch = .release
    let seen := fun (y : Session) => { y with lastReading := some r.energy }
    let billed := fun (inc : Nat) (z : Session) (segs : List Segment) (y : Session) =>
      let p := splitEnergy inc s.meter.shares z.sunRes z.batteryRes
      { y with
        lastReading := some r.energy, total := y.total + inc, sun := y.sun + p.sun, battery := y.battery + p.battery,
        grid := y.grid + p.grid, sunRes := p.sunRes, batteryRes := p.batteryRes,
        segments := addToLast segs p.sun p.battery p.grid }
    r.fault = 0 →
    (r.present = true → r.stop = false →
      (old.energy = none ∨ old.energy = some r.energy → charged read seen)
      ∧ (∀ l, old.energy = some l → r.energy < l →
          charged (if s.queued .park (.bay b) then read else granted) seen)
      ∧ (∀ l z segs, old.energy = some l → l < r.energy → s.openSession b = some z → s.segmentsFor z = (segs, false) →
          (∀ limit, z.limit = some limit → z.total + (r.energy - l) < limit) →
          charged read (billed (r.energy - l) z segs)))
    ∧ (bay.state = .ending →
      (old.energy = none ∨ old.energy = some r.energy → closes seen)
      ∧ (∀ l, old.energy = some l → r.energy < l → closes seen)
      ∧ (∀ l z segs full, old.energy = some l → l < r.energy → s.openSession b = some z →
          s.segmentsFor z = (segs, full) → closes (billed (r.energy - l) z segs)))
    ∧ (∀ l z segs limit, r.present = true → r.stop = false → bay.state.eligible = true → old.energy = some l →
        s.openSession b = some z → l < r.energy → s.segmentsFor z = (segs, false) → z.limit = some limit →
        limit ≤ z.total + (r.energy - l) →
      ∃ t, exec (.answerReceived a) s = .next t ∧ (t.bayOf b).state = .ending ∧ t.grantOf b = 0
        ∧ (∀ y ∈ t.sess.table, y.isOpen = true → y.bay = b → y.cause = some .energyLimit)
        ∧ t.sess.table.map (fun y => (y.total, y.segments))
            = (mapped (billed (r.energy - l) z segs)).map (fun y => (y.total, y.segments)))
    ∧ (∀ l z segs, r.present = true → r.stop = false → bay.state.eligible = true → old.energy = some l →
        s.openSession b = some z → l < r.energy → s.segmentsFor z = (segs, true) →
        (∀ limit, z.limit = some limit → z.total + (r.energy - l) < limit) →
      ∃ t, exec (.answerReceived a) s = .next t ∧ (t.bayOf b).state = .ending ∧ t.grantOf b = 0
        ∧ (∀ y ∈ t.sess.table, y.isOpen = true → y.bay = b → y.cause = some .segmentLimit)
        ∧ t.sess.table.map (fun y => (y.total, y.segments))
            = (mapped (billed (r.energy - l) z segs)).map (fun y => (y.total, y.segments)))
    ∧ (∀ code, r.present = true → r.stop = false → old.energy = some r.energy → bay.state = .plugged →
        bay.freePending = false → s.freeOn = false → r.keypad = some code → bay.parkPending = false →
        (∀ e, bay.cooldown = some e → e ≤ s.xchg.clock) →
      (∀ v ∈ s.sess.vouchers, v.code = code → v.inUse = true ∨ v.expiry ≤ s.xchg.clock) → s.openSession b = none →
      let recent := bay.wrongCodes.filter (fun w => decide (s.xchg.clock ≤ w + 300))
      exec (.answerReceived a) s = .next { s with
        link := { read with ordinary := joinAt ⟨⟨some (.bay b), .show .codeRefused⟩, false, false⟩ s.link.ordinary },
        sess.bays := s.sess.bays.set b (if 2 ≤ recent.length
          then { bay with power := r.power, wrongCodes := [], cooldown := some (s.xchg.clock + 60) }
          else { bay with power := r.power, wrongCodes := recent ++ [s.xchg.clock] }) })
    ∧ (∀ code n, r.present = true → r.stop = false → old.energy = some r.energy → bay.state = .plugged →
        bay.freePending = false → s.freeOn = false → r.keypad = some code → bay.parkPending = false →
        (∀ e, bay.cooldown = some e → e ≤ s.xchg.clock) →
        (∃ v ∈ s.sess.vouchers, v.code = code ∧ v.inUse = false ∧ s.xchg.clock < v.expiry) →
        s.price.bands ≠ [] → s.price.unlockPending = false → s.price.sessions.valid = true →
        s.price.sessions.next = some n → s.sess.table.length < 32 →
      ∃ t, exec (.answerReceived a) s = .next t
        ∧ (∃ y ∈ t.sess.table, y.number = n ∧ y.isOpen = true ∧ y.bay = b ∧ y.authority = .voucher
            ∧ y.voucher = some code ∧ y.total = 0)
        ∧ (∀ v ∈ t.sess.vouchers, v.code = code → v.inUse = true)
        ∧ ((t.bayOf b).state = .awaitPower ∨ (t.bayOf b).state = .charging)
        ∧ (t.bayOf b).session = some n ∧ (t.bayOf b).latch = .lock))
  ∧ (∀ (segs : List Segment) (g : Segment) (n : Nat) (band : Band) (generation : DWord), segs.getLast? = some g →
    (g.band = n → g.generation = generation → placeSegment segs n band generation = (segs, false))
    ∧ (¬ (g.band = n ∧ g.generation = generation) → g.sun + g.battery + g.grid = 0 →
        placeSegment segs n band generation = (segs.dropLast ++ [segmentFor n band generation], false))
    ∧ (¬ (g.band = n ∧ g.generation = generation) → g.sun + g.battery + g.grid ≠ 0 → segs.length < 16 →
        placeSegment segs n band generation = (segs ++ [segmentFor n band generation], false))
    ∧ (¬ (g.band = n ∧ g.generation = generation) → g.sun + g.battery + g.grid ≠ 0 → 16 ≤ segs.length →
        placeSegment segs n band generation = (segs, true)))

/-- R128, R119, R125, R126, R129: the completion of a store write that passes or fails. The request that asked for it leaves
the holder, answered DONE with the new generation or the lock count, or REFUSED STORE_FAILED; unlock pending becomes no at the
end of an unlock, and while no other write waits it is set by nothing. Whether a failed write damages its item is an operand
(log entry 15). -/
def Obligations.StoreWritesTakeEffectWhenTheyPass : Prop :=
  ∀ (a : ActiveWrite) (damages : Bool) (s : State), s.Quiet → s.price.active = some a →
    (∃ t, exec (.storeWriteComplete .passed) s = .next t
      ∧ ((∀ base, a.job ≠ .block .receipt base) ∨ (∀ x ∈ s.sess.table, x.isOpen = true) → t.price.lastWrite = .passed)
      ∧ (∀ (p : Fin 8) (h : Held), a.job.place = some p → s.xchg.holder[p] = some h → t.xchg.holder[p] = none
          ∧ (TakenIn s.xchg.mem h.slot h.ticket → AnswerIn t.xchg.mem h.slot h.ticket (.done .none (dwordWords
              (match a.job with
                | .tariff _ _ => a.item.generation
                | .lock _ | .unlock _ | .block _ _ => a.item.lockCount)))))
      ∧ (∀ place, a.job = .unlock place → t.price.unlockPending = false)
      ∧ ((∀ place, a.job ≠ .unlock place) → s.price.queue = [] → t.price.unlockPending = s.price.unlockPending)
      ∧ (∀ place bands, a.job = .tariff place bands → t.price.bands = a.item.bands
          ∧ t.price.generation = a.item.generation ∧ t.price.locked = s.price.locked ∧ t.nv.tariff = a.item
          ∧ t.nv.tariffDamaged = false ∧ t.sess = s.sess ∧ t.rcpt = s.rcpt ∧ t.link = s.link ∧ t.meter = s.meter)
      ∧ (∀ place, a.job = .lock place → t.price.locked = true ∧ t.price.lockCount = a.item.lockCount
          ∧ t.price.bands = s.price.bands ∧ t.nv.tariff = a.item ∧ t.nv.tariffDamaged = false ∧ t.sess = s.sess)
      ∧ (∀ place, a.job = .unlock place → t.price.locked = false ∧ t.price.bands = []
          ∧ t.price.generation = a.item.generation ∧ t.price.lockCount = a.item.lockCount ∧ t.nv.tariff = a.item
          ∧ t.nv.tariffDamaged = false ∧ t.sess = s.sess)
      ∧ (∀ base, a.job = .block .session base → t.nv.session = base ∧ t.nv.sessionDamaged = false
          ∧ (s.price.sessions.asked = some base → t.price.sessions = ⟨s.price.sessions.next, base, true, some base⟩)
          ∧ t.price.receipts = s.price.receipts ∧ t.sess = s.sess ∧ t.rcpt = s.rcpt)
      ∧ (∀ base, a.job = .block .receipt base → t.nv.receipt = base ∧ t.nv.receiptDamaged = false
          ∧ t.price.sessions = s.price.sessions
          ∧ (s.price.receipts.asked = some base → (∀ x ∈ s.sess.table, x.isOpen = true) →
              t.price.receipts = ⟨s.price.receipts.next, base, true, some base⟩)))
    ∧ (∃ t, exec (.storeWriteComplete (.failed damages)) s = .next t
      ∧ t.price.lastWrite = .failed ∧ t.xchg.attn &&& Attention.store.bit ≠ 0
      ∧ t.price.bands = s.price.bands ∧ t.price.generation = s.price.generation ∧ t.price.locked = s.price.locked
      ∧ t.price.lockCount = s.price.lockCount ∧ t.price.sessions = s.price.sessions
      ∧ t.price.receipts = s.price.receipts ∧ t.sess = s.sess ∧ t.link = s.link ∧ t.meter = s.meter ∧ t.rcpt = s.rcpt
      ∧ (damages = false → t.nv = s.nv)
      ∧ (damages = true → t.nv = s.nv.damagedBy a)
      ∧ (∀ (p : Fin 8) (h : Held), a.job.place = some p → s.xchg.holder[p] = some h → t.xchg.holder[p] = none
          ∧ (TakenIn s.xchg.mem h.slot h.ticket → AnswerIn t.xchg.mem h.slot h.ticket (.refused .storeFailed)))
      ∧ (s.price.queue = [] → t.price.unlockPending = match a.job with
          | .unlock _ => false
          | .tariff _ _ | .lock _ | .block _ _ => s.price.unlockPending))

/-- R159, R160: the page timer asks for a rewrite, 1 s after the last one began, which starts when the writer is idle and
waits otherwise; the count rises by one at the start and at the end. R171: what a rewrite shows in each block of the page. That
its words are written at the start, and the layout where R171 leaves it open, are log entry 16's. -/
def Obligations.PageRewritesBeginAndEnd : Prop :=
  ∀ s : State, s.Quiet →
    (s.xchg.timersOn = false ∨ (∃ began, s.xchg.rewriteBegan = some began ∧ s.elapsed < began + 1) →
        exec .pageTimer s = .next s)
    ∧ (s.xchg.timersOn = true → (∀ began, s.xchg.rewriteBegan = some began → began + 1 ≤ s.elapsed) →
        s.xchg.rewriting = true →
        exec .pageTimer s = .next { s with xchg.rewritePending := true })
    ∧ (s.xchg.timersOn = true → (∀ began, s.xchg.rewriteBegan = some began → began + 1 ≤ s.elapsed) →
        s.xchg.rewriting = false →
        ∃ m, exec .pageTimer s = .next { s with
            xchg.rewriting := true, xchg.generation := s.xchg.generation + 1, xchg.rewriteBegan := some s.elapsed,
            xchg.mem := m }
          ∧ m.word 0x0600 = s.xchg.generation + 1 ∧ m.words 0x0601 2 = showDWord s.xchg.clock ∧ PageShows s m
          ∧ ∀ a, outsidePage a → m.read a = s.xchg.mem.read a)
    ∧ (s.xchg.rewriting = false → exec .pageRewriteEnd s = .next s)
    ∧ (s.xchg.rewriting = true → s.xchg.rewritePending = false →
        ∃ m, exec .pageRewriteEnd s = .next { s with
            xchg.rewriting := false, xchg.generation := s.xchg.generation + 1, xchg.mem := m }
          ∧ m.word 0x0600 = s.xchg.generation + 1
          ∧ ∀ a, a < 2 * 0x0600 ∨ 2 * 0x0601 ≤ a → m.read a = s.xchg.mem.read a)
    ∧ (s.xchg.rewriting = true → s.xchg.rewritePending = true →
        ∃ m, exec .pageRewriteEnd s = .next { s with
            xchg.rewriting := true, xchg.rewritePending := false, xchg.generation := s.xchg.generation + 1 + 1,
            xchg.rewriteBegan := some s.elapsed, xchg.mem := m }
          ∧ m.word 0x0600 = s.xchg.generation + 1 + 1 ∧ PageShows s m
          ∧ ∀ a, outsidePage a → m.read a = s.xchg.mem.read a)

/-! ## The bay bus -/

/-- R18, R2: a free bus takes the first frame of the urgent lane, or else of the ordinary lane, with tag 0 for WHO and the
broadcast and the target's tag for any other frame (R173). -/
def Obligations.BusTakesTheUrgentLaneFirst : Prop :=
  ∀ s : State, s.Quiet →
    let tagOf := fun (f : Frame) => match f.target with
      | none => (0 : Byte)
      | some target => if f.body = .who then 0 else (s.recOf target).tag
    (∀ e es, s.link.bus = .idle → s.link.urgent = e :: es → exec .busFreeTakeFrame s = .next { s with
        link.urgent := es, link.bus := .sending ⟨e.frame, .urgent, tagOf e.frame, false, false, false⟩ })
    ∧ (∀ e es, s.link.bus = .idle → s.link.urgent = [] → s.link.ordinary = e :: es →
        exec .busFreeTakeFrame s = .next { s with
          link.ordinary := es, link.bus := .sending ⟨e.frame, .ordinary, tagOf e.frame, false, false, false⟩ })
    ∧ (s.link.urgent = [] → s.link.ordinary = [] → exec .busFreeTakeFrame s = .next s)
    ∧ (s.link.bus ≠ .idle → exec .busFreeTakeFrame s = .next s)

/-- R2, R5, R23, R3: the end of a frame on the line, of the hold window, and a run of stray bytes. -/
def Obligations.FramesLeaveAndWindowsEnd : Prop :=
  ∀ s : State, s.Quiet →
    (∀ (x : Exchange) (target : Target), s.link.bus = .sending x → x.frame.target = some target →
      exec .frameSent s = .next { s with
        link.bus := .awaiting x,
        link.recs := s.link.recs.set target.ix (match x.frame.body with
          | .poll => { s.recOf target with lastPoll := some s.elapsed }
          | .who => { s.recOf target with lastWho := some s.elapsed }
          | _ => s.recOf target) })
    ∧ (∀ x : Exchange, s.link.bus = .sending x → x.frame.target = none →
        exec .frameSent s = .next { s with link.bus := .window })
    ∧ (s.link.bus = .abandoned → exec .frameSent s = .next { s with link.bus := .idle })
    ∧ (s.link.bus = .window → exec .broadcastWindowEnd s = .next { s with link.bus := .idle })
    ∧ (s.link.bus ≠ .window → exec .broadcastWindowEnd s = .next s)
    ∧ exec .strayBytes s = .next { s with link.frameErrors := s.link.frameErrors + 1 }

/-- R2, R3: a good answer to a GRANT, LOCK, RELEASE, SHOW, CAP or SETPOINT completes the exchange and does nothing else. R21,
R46: one to PARK makes the record and the bay PARKED, and the held PARK_BAYs of the bay are answered DONE. That a session
which a CANCEL let open closes then, and that a record which is not NAMED stays, is log entry 11's choice. -/
def Obligations.AcknowledgementsFreeTheBus : Prop :=
  ∀ (x : Exchange) (target : Target) (a : AnswerFrame) (s : State), s.Quiet → s.link.bus = .awaiting x →
    x.frame.target = some target → answerOk x (s.recOf target) a = true →
    ((match x.frame.body with
      | .grant _ | .lock | .release | .show _ | .cap _ | .setpoint _ => True
      | _ => False) →
      exec (.answerReceived a) s = .next { s with link.bus := .idle })
    ∧ (∀ b, target = .bay b → x.frame.body = .park →
      let r := s.recOf target
      let bay := s.bayOf b
      (r.link ≠ .named → exec (.answerReceived a) s = .next { s with link.bus := .idle })
      ∧ (r.link = .named → ∃ t, exec (.answerReceived a) s = .next t ∧ t.link.bus = .idle
        ∧ (t.recOf target).link = .parked ∧ (t.recOf target).issuedGrant = 0 ∧ (t.recOf target).energy = r.energy
        ∧ (t.bayOf b).state = .parked ∧ (t.bayOf b).parkPending = false
        ∧ (∀ (p : Fin 8) (h : Held), s.xchg.holder[p] = some h → h.kind = Kind.parkBay.code →
            (bodyWord h.body 0).toNat = b.val + 1 → t.xchg.holder[p] = none)
        ∧ (bay.state.eligible = false → bay.state ≠ .ending →
          t.bayOf b = { bay with
              state := .parked, parkPending := false,
              change := if bay.state = .parked then bay.change else bay.change + 1 }
          ∧ t.sess.table = s.sess.table ∧ t.sess.vouchers = s.sess.vouchers ∧ t.link.urgent = s.link.urgent
          ∧ t.link.ordinary = s.link.ordinary ∧ t.allot = s.allot ∧ t.price = s.price ∧ t.rcpt = s.rcpt
          ∧ (bay.state ≠ .parked → t.xchg.attn &&& Attention.bay.bit ≠ 0)
          ∧ (∀ (p : Fin 8) (h : Held), s.xchg.holder[p] = some h → h.kind = Kind.parkBay.code →
              (bodyWord h.body 0).toNat = b.val + 1 → TakenIn s.xchg.mem h.slot h.ticket →
              AnswerIn t.xchg.mem h.slot h.ticket (.done .none []))
          ∧ t = { s with
              link.bus := .idle, xchg := t.xchg,
              link.recs := s.link.recs.set target.ix { r with link := .parked, issuedGrant := 0 },
              sess.bays := s.sess.bays.set b (t.bayOf b) }
          ∧ t.xchg.clock = s.xchg.clock ∧ t.xchg.offset = s.xchg.offset ∧ t.xchg.lastSlot = s.xchg.lastSlot
          ∧ (∀ p : Fin 8, (∀ h, s.xchg.holder[p] = some h → h.kind ≠ Kind.parkBay.code
                ∨ (bodyWord h.body 0).toNat ≠ b.val + 1) → t.xchg.holder[p] = s.xchg.holder[p])
          ∧ (∀ n, outsidePage n → (∀ (p : Fin 8) (h : Held), s.xchg.holder[p] = some h → h.kind = Kind.parkBay.code →
                (bodyWord h.body 0).toNat = b.val + 1 → outsideSlot h.slot n) →
              t.xchg.mem.read n = s.xchg.mem.read n))
        ∧ (bay.state.eligible = true ∨ bay.state = .ending → s.openSession b ≠ none →
          (∀ z ∈ t.sess.table, z.bay = b → z.isOpen = false) ∧ (t.bayOf b).session = none)
        ∧ t.meter = s.meter ∧ t.hold = s.hold ∧ t.grid = s.grid ∧ t.site = s.site ∧ t.nv = s.nv
        ∧ t.xchg.clock = s.xchg.clock ∧ t.xchg.mask = s.xchg.mask))

/-- R4, R3, R6, R10, R14, R41, R100, R111: an attempt that fails is retried once at once, and a frame error is counted. A
retry that fails by timeout: of a POLL, a missed poll, the third of which in a row makes the target SILENT; of a WHO or NAME, a
failed enrolment of a record that is being enrolled, which answers held ENROL_BAYs NO_ANSWER (R11); of a command, its kind
enters the resend set, unless a frame of the kind waits for the target; of a SHOW, nothing. That a WHO or NAME counts only
for a record that is UNNAMED and IN is log entry 13's; that the lane kept of two missed frames of one kind is the later one's
is log entry 56's (DESIGN CHOICE). -/
def Obligations.FailedAttemptsAreRetriedOnce : Prop :=
  ∀ (x : Exchange) (target : Target) (a : AnswerFrame) (s : State), s.Quiet → s.link.bus = .awaiting x →
    x.frame.target = some target →
    let r := s.recOf target
    (x.retry = false →
      exec .answerTimeout s = .next { s with link.bus := .sending { x with retry := true } }
      ∧ exec .answerAborted s = .next { s with
          link.bus := .sending { x with retry := true }, link.frameErrors := s.link.frameErrors + 1 }
      ∧ (answerOk x r a = false → exec (.answerReceived a) s = .next { s with
          link.bus := .sending { x with retry := true }, link.frameErrors := s.link.frameErrors + 1 }))
    ∧ (x.retry = true → x.frame.body = .poll → r.missed ≠ 2 →
      ∃ lane, exec .answerTimeout s = .next { s with
          link.bus := .idle, link.ordinary := lane, link.missedPolls := s.link.missedPolls + 1,
          link.recs := s.link.recs.set target.ix { r with missed := min 255 (r.missed + 1) } }
        ∧ ((∀ b, target = .bay b → (s.bayOf b).state ≠ .ending) → lane = s.link.ordinary)
        ∧ (∀ b, target = .bay b → (s.bayOf b).state = .ending → r.link = .named → s.site.run = .run →
            ∃ e ∈ lane, e.head = true ∧ e.frame.target = some target ∧ e.frame.body.laneKind = .link))
    ∧ (x.retry = true → x.frame.body = .poll → r.missed = 2 →
      ∃ t, exec .answerTimeout s = .next t ∧ t.link.bus = .idle ∧ (t.recOf target).missed = 3
        ∧ (t.recOf target).link = r.link ∧ t.link.missedPolls = s.link.missedPolls + 1
        ∧ (∀ b, target = .bay b →
            (t.bayOf b).state = (match (s.bayOf b).state with
              | .vacant | .plugged | .faulted | .awaitPower | .charging | .sated | .ending => .silent
              | st => st)
            ∧ ((s.bayOf b).state.eligible = true → t.grantOf b = 0 ∧ b ∉ t.allot.waitList)
            ∧ ((s.bayOf b).state.eligible = true ∨ (s.bayOf b).state = .ending →
                ∀ z ∈ t.sess.table, z.bay = b → z.isOpen = false))
        ∧ (∀ i, target = .string i → t.stringOf i = { s.stringOf i with
            link := if (s.stringOf i).link = .up then .down else (s.stringOf i).link })
        ∧ (target = .store → t.store.link = (if s.store.link = .up then .down else s.store.link)
            ∧ t.store.condition = conditionOf t.store.link s.store.gridAbsent s.store.fault s.store.reserve)
        ∧ t.meter = s.meter ∧ t.hold = s.hold ∧ t.grid = s.grid ∧ t.site = s.site)
    ∧ (x.retry = true → x.frame.body = .who ∨ (∃ tag, x.frame.body = .name tag) → r.link ≠ .unnamed ∨ r.fit ≠ .isIn →
      exec .answerTimeout s = .next { s with link.bus := .idle })
    ∧ (x.retry = true → x.frame.body = .who ∨ (∃ tag, x.frame.body = .name tag) ∧ x.stale = false → r.link = .unnamed →
        r.fit = .isIn →
      (∃ t, exec .answerTimeout s = .next t ∧ t.link.bus = .idle ∧ (t.recOf target).link = .unnamed
        ∧ (t.recOf target).missed = min 255 (r.missed + 1)
        ∧ (∀ b, target = .bay b → (t.bayOf b).state =
            if 2 ≤ r.missed ∧ ((s.bayOf b).state.eligible = true ∨ (s.bayOf b).state = .ending) then .silent
            else (s.bayOf b).state)
        ∧ (∀ (p : Fin 8) (h : Held), s.xchg.holder[p] = some h → h.kind = Kind.enrolBay.code →
            (bodyWord h.body 0).toNat = target.address → t.xchg.holder[p] = none
            ∧ (r.missed < 2 → TakenIn s.xchg.mem h.slot h.ticket →
                AnswerIn t.xchg.mem h.slot h.ticket (.done .noAnswer [])))
        ∧ t.meter = s.meter ∧ t.hold = s.hold ∧ t.grid = s.grid ∧ t.site = s.site ∧ t.price.bands = s.price.bands))
    ∧ (x.retry = true → ∀ (k : LaneKind) (set : ResendSet),
        (match x.frame.body with
          | .grant _ => k = .grant ∧ set = { r.resend with grant := some x.lane }
          | .lock | .release => k = .latch ∧ set = { r.resend with latch := true }
          | .park => k = .park ∧ x.withdrawn = false ∧ set = { r.resend with park := true }
          | .cap _ => k = .cap ∧ set = { r.resend with cap := some x.lane }
          | .setpoint _ => k = .setpoint ∧ set = { r.resend with setpoint := some x.lane }
          | .who | .name _ | .poll | .show _ => False) →
      (s.queued k target = true → exec .answerTimeout s = .next { s with link.bus := .idle })
      ∧ (s.queued k target = false → exec .answerTimeout s = .next { s with
          link.bus := .idle, link.recs := s.link.recs.set target.ix { r with resend := set } }))
    ∧ (x.retry = true → (∃ m, x.frame.body = .show m) → exec .answerTimeout s = .next { s with link.bus := .idle })

/-- R6, R7, R8, R9, R42: a good WHO answer of the right class is stored and has a NAME with the next tag queued; a REPLACED
module is counted, and a session open at its bay is closed. One of the wrong class makes the record MISMATCH, its bay UNFITTED
or its converter not enrolled, and counts a frame error; the record is then left alone. The model's choices (both DEDUCED): a
good WHO answer of a record that is not UNNAMED and IN, a NAMED or PARKED one among them, frees the bus and does nothing else
(log entry 13); a WHO still queued for a MISMATCH record leaves the lane (log entry 42). -/
def Obligations.WhoAnswersIdentifyTheModule : Prop :=
  ∀ (x : Exchange) (target : Target) (a : AnswerFrame) (s : State), s.Quiet → s.site.run = .run →
    s.link.bus = .awaiting x → x.frame = ⟨some target, .who⟩ → answerOk x (s.recOf target) a = true →
    ((s.recOf target).link ≠ .unnamed ∨ (s.recOf target).fit ≠ .isIn →
      exec (.answerReceived a) s = .next { s with link.bus := .idle })
    ∧ ((s.recOf target).link = .unnamed → (s.recOf target).fit = .isIn →
    let w := whoReport a.payload
    let r := s.recOf target
    let tag := if s.link.nextTag = 255 then 1 else s.link.nextTag + 1
    (w.cls = some target.cls → r.serial = none ∨ r.serial = some w.serial →
      exec (.answerReceived a) s = .next { s with
        link.bus := .idle,
        link.recs := s.link.recs.set target.ix { r with
          serial := some w.serial, cls := some target.cls, rating := w.rating,
          enrol := some (if r.serial = none then .first else .same),
          energy := if r.serial = none then none else r.energy },
        link.ordinary := joinAt ⟨⟨some target, .name s.link.nextTag⟩, false, false⟩ s.link.ordinary,
        link.nextTag := tag })
    ∧ (w.cls = some target.cls → (∃ serial, r.serial = some serial ∧ serial ≠ w.serial) →
      ((∀ b, target = .bay b → (s.bayOf b).state.eligible = false ∧ (s.bayOf b).state ≠ .ending) →
        exec (.answerReceived a) s = .next { s with
          link.bus := .idle,
          link.recs := s.link.recs.set target.ix { r with
            serial := some w.serial, cls := some target.cls, rating := w.rating, enrol := some .replaced,
            energy := none },
          link.replacedModules := s.link.replacedModules + 1,
          link.ordinary := joinAt ⟨⟨some target, .name s.link.nextTag⟩, false, false⟩ s.link.ordinary,
          link.nextTag := tag })
      ∧ (∀ b, target = .bay b → (s.bayOf b).state.eligible = true ∨ (s.bayOf b).state = .ending →
        ∃ t, exec (.answerReceived a) s = .next t ∧ (t.recOf target).serial = some w.serial
          ∧ (t.recOf target).cls = some target.cls ∧ (t.recOf target).rating = w.rating
          ∧ (t.recOf target).energy = none ∧ (t.recOf target).enrol = some .replaced
          ∧ t.link.replacedModules = s.link.replacedModules + 1 ∧ t.link.nextTag = tag
          ∧ (∃ e ∈ t.link.ordinary, e.frame = ⟨some target, .name s.link.nextTag⟩)
          ∧ (t.bayOf b).state = .seeking ∧ (∀ z ∈ t.sess.table, z.bay = b → z.isOpen = false)
          ∧ ((s.bayOf b).state.eligible = true → t.grantOf b = 0 ∧ b ∉ t.allot.waitList)
          ∧ (s.openSession b ≠ none → (t.bayOf b).session = none ∧ (t.bayOf b).latch = .release)))
    ∧ (w.cls ≠ some target.cls →
      ∃ t, exec (.answerReceived a) s = .next t ∧ t.recOf target = { r with fit := .mismatch }
        ∧ t.link.frameErrors = s.link.frameErrors + 1 ∧ t.link.nextTag = s.link.nextTag ∧ t.link.bus = .idle
        ∧ (∀ e ∈ t.link.ordinary, e.frame.target = some target → e.frame.body.laneKind ≠ .link)
        ∧ (∀ b, target = .bay b → (t.bayOf b).state = .unfitted
          ∧ ((s.bayOf b).state.eligible = true ∨ (s.bayOf b).state = .ending →
              ∀ z ∈ t.sess.table, z.bay = b → z.isOpen = false))
        ∧ (∀ i, target = .string i → t.stringOf i = { s.stringOf i with link := .none, rating := 0 })
        ∧ (target = .store → t.store.link = .none ∧ t.store.rating = 0 ∧ t.store.condition = .offline)
        ∧ (∀ (p : Fin 8) (h : Held), s.xchg.holder[p] = some h → (bodyWord h.body 0).toNat = target.address →
            h.kind = Kind.enrolBay.code ∨ h.kind = Kind.returnBay.code ∧ (∃ b, target = .bay b) →
            t.xchg.holder[p] = none)))

/-- R6, R8, R9, R11, R25, R42, R100, R111, R112: the acknowledgement of NAME gives the record its tag, makes it NAMED and its
missed polls 0. The owning unit is told, the frames of R9 are queued after a SAME or REPLACED enrolment, and the held ENROL_BAYs
and RETURN_BAYs of the address are answered ENROLLED; the order of the three is log entry 34's. The converter flow, 0 after a
REPLACED enrolment and kept after any other, is the model's choice (log entry 54: R100's table names no flow). A NAME that a
roll call has overtaken (log entry 13), or whose record is not being enrolled, does nothing. -/
def Obligations.NameAcknowledgementsEnrol : Prop :=
  ∀ (x : Exchange) (target : Target) (tag : Byte) (a : AnswerFrame) (s : State), s.Quiet → s.link.bus = .awaiting x →
    x.frame = ⟨some target, .name tag⟩ → answerOk x (s.recOf target) a = true →
    let r := s.recOf target
    let kind := r.enrol.getD .first
    (x.stale = true ∨ r.link ≠ .unnamed ∨ r.fit ≠ .isIn → exec (.answerReceived a) s = .next { s with link.bus := .idle })
    ∧ (x.stale = false → r.link = .unnamed → r.fit = .isIn → ∃ t, exec (.answerReceived a) s = .next t
      ∧ (t.recOf target).link = .named ∧ (t.recOf target).tag = tag ∧ (t.recOf target).missed = 0
      ∧ (t.recOf target).serial = r.serial ∧ (t.recOf target).energy = r.energy ∧ (t.recOf target).cls = r.cls
      ∧ (t.recOf target).rating = r.rating ∧ (t.recOf target).enrol = none
      ∧ t.link.bus = .idle ∧ t.link.nextTag = s.link.nextTag ∧ t.meter = s.meter ∧ t.hold = s.hold ∧ t.grid = s.grid
      ∧ t.site = s.site ∧ t.nv = s.nv ∧ t.xchg.clock = s.xchg.clock ∧ t.xchg.mask = s.xchg.mask
      ∧ t.allot.grants = s.allot.grants ∧ t.allot.waitList = s.allot.waitList
      ∧ (∀ b, target = .bay b →
        let bay := s.bayOf b
        let units := s.grantOf b / 100
        (bay.state = .seeking ∨ bay.state = .silent → t.bayOf b = { bay with
            state := .vacant, change := bay.change + 1, wrongCodes := [], cooldown := none, lowStart := none,
            highCount := 0, freePending := false }
          ∧ t.xchg.attn &&& Attention.bay.bit ≠ 0
          ∧ (bay.parkPending = true → bay.session = none → s.site.run = .run →
              ∃ e ∈ t.link.urgent, e.frame = ⟨some target, .park⟩))
        ∧ (bay.state = .ending → (t.bayOf b).state = .vacant
          ∧ (s.openSession b ≠ none → (t.bayOf b).session = none ∧ ∀ z ∈ t.sess.table, z.bay = b → z.isOpen = false))
        ∧ (bay.state ≠ .seeking → bay.state ≠ .silent → bay.state ≠ .ending → t.bayOf b = bay)
        ∧ (bay.state ≠ .ending → t.sess.table = s.sess.table ∧ t.sess.vouchers = s.sess.vouchers ∧ t.rcpt = s.rcpt
          ∧ t.price = s.price)
        ∧ (kind = .first → bay.state ≠ .ending → bay.parkPending = false →
          t.link.urgent = s.link.urgent ∧ t.link.ordinary = s.link.ordinary)
        ∧ (kind ≠ .first → s.site.run = .run →
          (∃ e ∈ t.link.ordinary, e.frame = ⟨some target, match (t.bayOf b).latch with
            | .lock => .lock
            | .release => .release⟩)
          ∧ (bay.parkPending = false → s.queued .park target = false →
            (t.recOf target).issuedGrant = units
            ∧ ∃ e ∈ (if units = 0 ∨ units < r.issuedGrant then t.link.urgent else t.link.ordinary),
              e.frame = ⟨some target, .grant units⟩)))
      ∧ (∀ i, target = .string i →
        let cap := (t.allot.ceilings[i]).getD r.rating
        t.stringOf i = ⟨.up, r.rating, (match kind with
            | .same => (s.stringOf i).fault
            | .first | .replaced => 0), none⟩
        ∧ t.allot.ceilings = s.allot.ceilings.set i (match s.allot.ceilings[i] with
            | none => none
            | some c => if r.rating ≤ c then none else some c)
        ∧ t.sess = s.sess ∧ t.price = s.price
        ∧ (kind = .first → t.link.urgent = s.link.urgent ∧ t.link.ordinary = s.link.ordinary)
        ∧ (kind ≠ .first → s.site.run = .run → (t.recOf target).issuedCap = cap
          ∧ ∃ e ∈ (if cap < r.issuedCap then t.link.urgent else t.link.ordinary), e.frame = ⟨some target, .cap cap⟩))
      ∧ (target = .store →
        let fault := if kind = .same then s.store.fault else 0
        let reserve := if kind = .replaced then false else s.store.reserve
        let condition := conditionOf .up s.store.gridAbsent fault reserve
        t.store.link = .up ∧ t.store.rating = r.rating ∧ t.store.fault = fault ∧ t.store.reserve = reserve
        ∧ t.store.forming = (if kind = .same then s.store.forming else false)
        ∧ t.store.soc = (if kind = .same then s.store.soc else none)
        ∧ t.store.flow = (if kind = .replaced then 0 else s.store.flow)
        ∧ t.store.condition = condition
        ∧ t.store.discharge = dischargeAllowance condition s.store.holdMissed reserve s.site.settings.dischargeLimit
            (r.rating * 100)
        ∧ t.store.charge = chargeAllowance condition s.site.settings.chargeLimit (r.rating * 100)
        ∧ t.sess = s.sess ∧ t.price = s.price
        ∧ (kind ≠ .first → s.site.run = .run → (t.recOf target).issuedSetpoint = t.allot.setpoint
          ∧ ∃ e ∈ t.link.urgent ++ t.link.ordinary, e.frame = ⟨some target, .setpoint t.allot.setpoint⟩))
      ∧ ((∀ b, target = .bay b → (s.bayOf b).state ≠ .ending) →
        ∀ (p : Fin 8) (h : Held), s.xchg.holder[p] = some h → (bodyWord h.body 0).toNat = target.address →
        (∀ (q : Fin 8) (g : Held), q ≠ p → s.xchg.holder[q] = some g → g.slot ≠ h.slot) →
        (h.kind = Kind.enrolBay.code → t.xchg.holder[p] = none
          ∧ (TakenIn s.xchg.mem h.slot h.ticket → AnswerIn t.xchg.mem h.slot h.ticket
              (.done .enrolled ([natWord kind.code] ++ fieldWords 4 (r.serial.getD 0) ++ [natWord (match r.cls with
                | none => 0
                | some c => c.code), natWord r.rating]))))
        ∧ (h.kind = Kind.returnBay.code → (∃ b, target = .bay b) → t.xchg.holder[p] = none
          ∧ (TakenIn s.xchg.mem h.slot h.ticket → AnswerIn t.xchg.mem h.slot h.ticket
              (.done .enrolled [natWord kind.code])))))

/-- R12, R100 to R103, R105, R106, R108, R111: the POLL answer of a converter. A canopy string's output and fault code are
stored. The store converter's state of charge, flow, fault code and grid-forming flag are stored, the reserve mark is tested,
the battery condition is derived, and a new condition is acted on; the grid-forming watch follows. -/
def Obligations.ConverterReportsAreStored : Prop :=
  (∀ (x : Exchange) (i : StringIx) (a : AnswerFrame) (s : State), GoodPoll s x (.string i) a →
    exec (.answerReceived a) s = .next { s with
      link.bus := .idle, link.recs := s.link.recs.set (Target.string i).ix { s.recOf (.string i) with missed := 0 },
      store.strings := s.store.strings.set i { s.stringOf i with
        output := some (payloadNat a.payload 1 4), fault := (payloadByte a.payload 5).toNat } })
  ∧ (∀ (x : Exchange) (a : AnswerFrame) (s : State), GoodPoll s x .store a →
    let soc := min (payloadNat a.payload 1 2) 1000
    let fault := (payloadByte a.payload 7).toNat
    let forming := flagByte (payloadByte a.payload 8)
    let reserve := if s.store.reserve then decide (soc < s.site.settings.reserveFloor + 20)
      else decide (soc ≤ s.site.settings.reserveFloor)
    let condition : Condition :=
      if s.store.link = .none then .offline
      else if s.store.gridAbsent then .backup
      else if s.store.link = .down ∨ fault ≠ 0 then .fault
      else if reserve then .reserve
      else .ready
    ∃ t, exec (.answerReceived a) s = .next t
      ∧ t.link.bus = .idle ∧ (t.recOf .store).missed = 0
      ∧ t.store.soc = some soc ∧ t.store.flow = payloadInt a.payload 3 ∧ t.store.fault = fault
      ∧ t.store.forming = forming ∧ t.store.reserve = reserve ∧ t.store.condition = condition
      ∧ t.store.link = s.store.link ∧ t.store.rating = s.store.rating ∧ t.store.strings = s.store.strings
      ∧ (condition = s.store.condition → t.store.discharge = s.store.discharge ∧ t.store.charge = s.store.charge
          ∧ t.allot = s.allot ∧ t.xchg = s.xchg)
      ∧ (condition ≠ s.store.condition →
          t.store.discharge = dischargeAllowance condition s.store.holdMissed reserve s.site.settings.dischargeLimit
            (s.store.rating * 100)
          ∧ t.store.charge = chargeAllowance condition s.site.settings.chargeLimit (s.store.rating * 100)
          ∧ PageAsked { s.xchg with attn := s.xchg.attn ||| Attention.store.bit } t.xchg s.elapsed
          ∧ t.allot.grants = s.allot.grants ∧ t.allot.ceilings = s.allot.ceilings ∧ t.allot.waitList = s.allot.waitList
          ∧ (condition = .backup → t.allot.setpoint = .formGrid ∧ t.allot.stance = .idle
              ∧ ∃ e ∈ t.link.urgent, e.frame = ⟨some .store, .setpoint .formGrid⟩)
          ∧ (s.store.condition = .backup → t.allot.setpoint = .watts 0 ∧ t.allot.stance = .idle)
          ∧ (condition ≠ .backup → s.store.condition ≠ .backup → ∀ w, s.allot.setpoint = .watts w →
              t.allot.setpoint = .watts (if (t.store.discharge : Int) < w then t.store.discharge
                else if w < -(t.store.charge : Int) then -(t.store.charge : Int) else w)))
      ∧ (condition = s.store.condition → condition = .backup → s.allot.setpoint = .formGrid → forming = false →
          s.queued .setpoint .store = false → ∃ e ∈ t.link.urgent, e.frame = ⟨some .store, .setpoint .formGrid⟩)
      ∧ (∀ w, condition = s.store.condition → condition ≠ .backup → s.allot.setpoint = .watts w → forming = true →
          s.queued .setpoint .store = false →
          ∃ e ∈ t.link.urgent ++ t.link.ordinary, e.frame = ⟨some .store, .setpoint (.watts w)⟩)
      ∧ (condition = s.store.condition → s.queued .setpoint .store = true
            ∨ condition = .backup ∧ forming = true ∨ condition ≠ .backup ∧ forming = false →
          t.link.urgent = s.link.urgent ∧ t.link.ordinary = s.link.ordinary)
      ∧ t.sess = s.sess ∧ t.meter = s.meter ∧ t.hold = s.hold ∧ t.grid = s.grid ∧ t.rcpt = s.rcpt ∧ t.price = s.price
      ∧ t.nv = s.nv ∧ t.site = s.site)

/-- R19: a cycle starts in RUN, when no frame of the previous cycle waits and 1 s or more has passed since it started. For
each record that is IN there waits then: a POLL for a NAMED one, or a frame head-placed for it (R20); a POLL for a PARKED one
not polled for 30 s; a WHO or NAME for an UNNAMED one with fewer than three missed polls; a WHO for another UNNAMED one with
none sent for 30 s. No record is changed, the frames that waited stay but for LINK frames replaced, and no other frame is
added. -/
def Obligations.CyclesPollTheNamedRecords : Prop :=
  ∀ s : State, s.Quiet →
    (s.site.run = .halted ∨ s.cycleDone = false ∨ (∃ c, s.link.cycleStart = some c ∧ s.elapsed < c + 1) →
      exec .schedulerCycle s = .next s)
    ∧ (s.site.run = .run → s.cycleDone = true → (∀ c, s.link.cycleStart = some c → c + 1 ≤ s.elapsed) →
      ∃ lane, exec .schedulerCycle s = .next { s with link.ordinary := lane, link.cycleStart := some s.elapsed }
        ∧ (∀ target, (s.recOf target).fit = .isIn →
            let r := s.recOf target
            let kept := ∀ e ∈ lane, e.frame.target = some target → e ∈ s.link.ordinary
            let due := fun (last : Option Nat) => ∀ l, last = some l → l + 30 ≤ s.elapsed
            (r.link = .named → ∃ e ∈ lane, e.frame.target = some target ∧ e.frame.body.laneKind = .link
              ∧ (e.frame.body = .poll ∨ e.head = true))
            ∧ (r.link = .parked → due r.lastPoll → ∃ e ∈ lane, e.frame = ⟨some target, .poll⟩)
            ∧ (r.link = .parked → ¬ due r.lastPoll → kept)
            ∧ (r.link = .unnamed → r.missed < 3 → ∃ e ∈ lane, e.frame.target = some target ∧ e.frame.body.enrols = true)
            ∧ (r.link = .unnamed → r.missed < 3 → s.enrolQueued target = true → kept)
            ∧ (r.link = .unnamed → 3 ≤ r.missed → due r.lastWho → ∃ e ∈ lane, e.frame = ⟨some target, .who⟩)
            ∧ (r.link = .unnamed → 3 ≤ r.missed → ¬ due r.lastWho → kept))
        ∧ (∀ target, (s.recOf target).fit ≠ .isIn → ∀ e ∈ lane, e.frame.target = some target → e ∈ s.link.ordinary)
        ∧ (∀ e ∈ lane, e.frame.body.laneKind ≠ .link ∨ e.frame.target = none → e ∈ s.link.ordinary)
        ∧ (∀ e ∈ s.link.ordinary, e.frame.body.laneKind ≠ .link ∨ e.frame.target = none → e ∈ lane))

/-! ## Samples and the meter -/

/-- R48, R49, R50: the receiver of the meter line by single bytes, the line bytes of a sample, and the checks of a sample in
their order, with the gap; a discarded sample has no effect, and an aborted one has none. The model's choice (log entry 41): a
byte inside a sample is kept whatever its idle mark, since the idle that aborts a sample is the row SAMPLE_ABORT. -/
def Obligations.SamplesAreCheckedInOrder : Prop :=
  ∀ (m : SampleFrame) (got : List Byte) (v : Byte) (idle : Bool) (bytes : List MeterByte) (s : State), s.Quiet →
    (s.meter.receiver = .waiting → v ≠ 0x5A ∨ idle = false → exec (.sampleReceived [⟨v, idle⟩]) s = .next s)
    ∧ (s.meter.receiver = .waiting →
        exec (.sampleReceived [⟨0x5A, true⟩]) s = .next { s with meter.receiver := .inside [] })
    ∧ (s.meter.receiver = .inside got → got.length < 23 →
        exec (.sampleReceived [⟨v, idle⟩]) s = .next { s with meter.receiver := .inside (got ++ [v]) })
    ∧ exec .sampleAbort s = .next { s with meter.receiver := .waiting }
    ∧ (s.meter.receiver = .waiting → s.meter.receiver.spells (sampleLine m) = some m)
    ∧ (s.meter.receiver = .inside got → got ++ bytes.map (·.value) = sampleData m ++ [m.check] → bytes ≠ [] →
        s.meter.receiver.spells bytes = some m)
    ∧ (s.meter.receiver.spells bytes = some m →
      (m.present ≠ 0 ∧ m.present ≠ 1 ∨ m.check ≠ xorBytes (sampleData m) ∨ s.meter.lastSeq = some m.seq →
        exec (.sampleReceived bytes) s = .next { s with meter.receiver := .waiting })
      ∧ (m.present = 0 ∨ m.present = 1 → m.check = xorBytes (sampleData m) → s.meter.lastSeq ≠ some m.seq →
        ∃ t, exec (.sampleReceived bytes) s = .next t ∧ t.meter.receiver = .waiting ∧ t.meter.lastSeq = some m.seq
          ∧ t.meter.gaps = match s.meter.lastSeq with
            | none => s.meter.gaps
            | some l => if m.seq = l + 1 then s.meter.gaps else s.meter.gaps + 1))

/-- R60: the shares that an accepted sample gives, from its feeder, canopy and battery flow alone: sun, battery and grid power
in W, then the floors in permille, the grid share the rest of 1000. While the grid is LOST no bay holds a grant. -/
def Obligations.SharesSplitTheFeeder : Prop :=
  ∀ (m : SampleFrame) (bytes : List MeterByte) (s : State), s.inReset = false →
    s.meter.receiver.spells bytes = some m → s.sampleGood m = true →
    let feeder := m.feeder.toNat
    let sunPower := min m.canopy.toNat feeder
    let batteryPower := min m.flow.toInt.toNat (feeder - sunPower)
    let gridPower := feeder - sunPower - batteryPower
    ∃ t, exec (.sampleReceived bytes) s = .next t
      ∧ (feeder = 0 → t.meter.shares = ⟨0, 0, 1000⟩)
      ∧ (feeder ≠ 0 → t.meter.shares.sun = sunPower * 1000 / feeder
        ∧ t.meter.shares.battery = batteryPower * 1000 / feeder
        ∧ t.meter.shares.grid = 1000 - t.meter.shares.sun - t.meter.shares.battery
        ∧ gridPower * 1000 ≤ t.meter.shares.grid * feeder
        ∧ t.meter.shares.grid * feeder < gridPower * 1000 + 2 * feeder)
      ∧ t.meter.shares.sun + t.meter.shares.battery + t.meter.shares.grid = 1000
      ∧ (s.grantsMatch → (s.grid.state = .lost → ∀ b, s.grantOf b = 0) → t.grid.state = .lost → ∀ b, t.grantOf b = 0)

/-- R50, R51, R54, R57, R60, R81: what an accepted sample leaves in the Meter Unit: its own fields, the shares, the import and
the exceedance test. R88, R89, R93, R94: what the hold controller makes of it: the good-sample count, MET with the answer of the
GRID_HOLD at the third good sample, a new demand when MET is exceeded. R95, R96, R97: what the grid watch makes of it: LOST with
the grants taken back, RETURNING with its timer, PRESENT after a timer that ran out. And what it leaves alone. -/
def Obligations.AcceptedSampleIsRecorded : Prop :=
  ∀ (m : SampleFrame) (bytes : List MeterByte) (s : State), s.inReset = false →
    s.meter.receiver.spells bytes = some m → s.sampleGood m = true →
    ∃ t, exec (.sampleReceived bytes) s = .next t
      ∧ t.meter.receiver = .waiting ∧ t.meter.lastSeq = some m.seq ∧ t.meter.state = .live
      ∧ t.meter.latest = ⟨m.seq, m.gridPower.toInt, decide (m.present = 1), m.shop.toNat, m.feeder.toNat,
          m.canopy.toNat, m.flow.toInt⟩
      ∧ t.meter.arrival = some s.xchg.clock ∧ t.meter.watch = some s.elapsed
      ∧ t.meter.intervalStart = s.meter.intervalStart
      ∧ t.meter.gaps = (if s.meter.lastSeq = none ∨ s.meter.lastSeq = some (m.seq - 1) then s.meter.gaps
          else s.meter.gaps + 1)
      ∧ (let feeder := m.feeder.toNat
         let sunPower := min m.canopy.toNat feeder
         let batteryPower := min m.flow.toInt.toNat (feeder - sunPower)
         t.meter.shares.sun = sunPower * 1000 / feeder
          ∧ t.meter.shares.battery = batteryPower * 1000 / feeder
          ∧ t.meter.shares.grid = 1000 - t.meter.shares.sun - t.meter.shares.battery
          ∧ (feeder = 0 → t.meter.shares = ⟨0, 0, 1000⟩)
          ∧ t.meter.shares.sun + t.meter.shares.battery + t.meter.shares.grid = 1000)
      ∧ t.meter.residue = (s.meter.residue + m.gridPower.toInt.toNat) % 3600
      ∧ t.meter.used = min 4294967295 (s.meter.used + (s.meter.residue + m.gridPower.toInt.toNat) / 3600)
      ∧ (if s.site.settings.intervalTarget ≠ 0 ∧ s.site.settings.intervalTarget < t.meter.used
            ∧ s.meter.exceeded = false
         then t.meter.exceeded = true ∧ t.meter.exceedances = s.meter.exceedances + 1
         else t.meter.exceeded = s.meter.exceeded ∧ t.meter.exceedances = s.meter.exceedances)
      ∧ (s.meter.state = .blind → t.allot.blindTimer = false ∧ t.xchg.attn &&& Attention.meter.bit ≠ 0)
      ∧ (s.effectiveLimit = none ∨ s.hold.state = .clear → t.hold = s.hold)
      ∧ (∀ limit, s.effectiveLimit = some limit →
        let good := m.gridPower.toInt ≤ limit
        (s.hold.state = .met → t.hold = if good then s.hold
            else { s.hold with state := .requested, deadline := some (s.elapsed + 60), good := 0, ack := false })
        ∧ (s.hold.state = .requested ∨ s.hold.state = .missed →
          (¬ good → t.hold = { s.hold with good := 0 })
          ∧ (good → s.hold.good < 2 → t.hold = { s.hold with good := s.hold.good + 1 })
          ∧ (good → 2 ≤ s.hold.good →
            t.hold = ⟨s.hold.lineActive, s.hold.request.map (fun q => { q with asker := none }), .met, none, 3, true⟩
            ∧ (s.hold.state = .missed → t.store.holdMissed = false)
            ∧ (∀ (q : HoldRequest) (p : Fin 8) (h : Held), s.hold.request = some q → q.asker = some p →
                s.xchg.holder[p] = some h → t.xchg.holder[p] = none
                ∧ (TakenIn s.xchg.mem h.slot h.ticket → AnswerIn t.xchg.mem h.slot h.ticket
                    (.done .met (showDWord limit ++ [natWord 3])))))))
      ∧ t.grid = (match s.grid.state, decide (m.present = 1), s.grid.timer with
          | .present, true, _ | .lost, false, _ => s.grid
          | .present, false, _ | .returning, false, _ => ⟨.lost, .stopped⟩
          | .lost, true, _ => ⟨.returning, .running (s.elapsed + 300)⟩
          | .returning, true, .runOut => ⟨.present, .stopped⟩
          | .returning, true, _ => s.grid)
      ∧ t.store.gridAbsent = (if t.grid.state = s.grid.state ∨ t.grid.state = .returning then s.store.gridAbsent
          else decide (t.grid.state = .lost))
      ∧ (t.grid.state = .lost → s.grid.state ≠ .lost →
        t.store.condition = (if s.store.link = .none then .offline else .backup)
        ∧ (∀ b, (s.bayOf b).state.powered = true →
            (t.bayOf b).state = .awaitPower ∧ t.grantOf b = 0 ∧ b ∈ t.allot.waitList))
      ∧ (t.grid.state = .present → s.grid.state ≠ .present → t.store.condition ≠ .backup)
      ∧ (t.hold.state ≠ s.hold.state ∨ t.grid.state ≠ s.grid.state → t.xchg.attn &&& Attention.grid.bit ≠ 0)
      ∧ t.rcpt = s.rcpt ∧ t.site = s.site ∧ t.nv = s.nv ∧ t.sess.vouchers = s.sess.vouchers
      ∧ t.xchg.clock = s.xchg.clock ∧ t.xchg.mask = s.xchg.mask

/-- R32, R33, R44, R45, R122, R123, R124: the close of a session. The record is closed at the site clock with its idle clock
stopped, and its lines, subtotal, credit and total are frozen. The final answer in ENDING closes the session so: a void one
leaves the table, is counted, and gives its voucher back; any other stays for the Receipt Unit; held STOP_SESSIONs are
answered. -/
def Obligations.ClosesPriceTheSession : Prop :=
  (∀ (clock elapsed : Nat) (vouchers : List Voucher) (z : Session),
    let seconds := z.idle.seconds + (match z.idle.running with
      | none => 0
      | some began => elapsed - began)
    let minutes := match z.idle.first with
      | none => 0
      | some f => seconds / 60 - f.grace
    let energy := z.segments.map (fun g => (⟨.energy, g.band, g.generation, g.sun + g.battery + g.grid,
      (g.sun * g.sunPrice + g.battery * g.batteryPrice + g.grid * g.gridPrice + 500) / 1000⟩ : Line))
    let idle : List Line := match z.idle.first with
      | none => []
      | some f => if minutes = 0 then [] else [⟨.idle, f.band, f.generation, minutes, minutes * f.price⟩]
    let subtotal := (energy.map (·.amount)).sum
    let waiting := (idle.map (·.amount)).sum
    ∃ bill, closedRecord clock elapsed vouchers z = { z with
        closed := some clock, isOpen := false, idle := ⟨seconds, none, z.idle.first⟩, bill := some bill }
      ∧ (z.voucher = none → bill = ⟨energy ++ idle, subtotal, 0, subtotal + waiting⟩)
      ∧ (∀ code v, z.voucher = some code → vouchers.find? (fun w => decide (w.code = code)) = some v →
          let credit := match v.kind with
            | .amount => min v.value subtotal
            | .percent => subtotal * v.value / 100
          bill = ⟨energy ++ idle ++ [⟨.voucher, 0, 0, 0, credit⟩], subtotal, credit, subtotal + waiting - credit⟩)
      ∧ ((closedRecord clock elapsed vouchers z).isVoid = true ↔ z.total = 0 ∧ minutes = 0))
  ∧ (∀ (x : Exchange) (b : BayIx) (a : AnswerFrame) (z : Session) (s : State), GoodPoll s x (.bay b) a →
    let r := bayReport a.payload
    r.fault = 0 → (s.bayOf b).state = .ending → s.openSession b = some z → (s.recOf (.bay b)).energy = some r.energy →
    s.price.receipts.valid = false →
    let y := closedRecord s.xchg.clock s.elapsed s.sess.vouchers { z with lastReading := some r.energy }
    let closed := s.sess.table.map (fun o => if o.isOpen = true ∧ o.bay = b then y else o)
    ∃ t, exec (.answerReceived a) s = .next t
      ∧ (y.isVoid = false → t.sess.table = closed ∧ t.sess.vouchers = s.sess.vouchers ∧ t.sess.voids = s.sess.voids)
      ∧ (y.isVoid = true → t.sess.table = closed.filter (fun o => decide (o.number ≠ z.number))
          ∧ t.sess.voids = s.sess.voids + 1
          ∧ (z.voucher = none → t.sess.vouchers = s.sess.vouchers)
          ∧ (∀ code, z.voucher = some code →
              (∀ v ∈ t.sess.vouchers, v.code = code → v.inUse = false ∧ s.xchg.clock < v.expiry)
              ∧ (∀ v ∈ s.sess.vouchers, v.code = code → s.xchg.clock < v.expiry →
                  { v with inUse := false } ∈ t.sess.vouchers)
              ∧ (∀ v ∈ s.sess.vouchers, v.code ≠ code → v ∈ t.sess.vouchers)))
      ∧ (∀ (p : Fin 8) (h : Held), s.xchg.holder[p] = some h → h.kind = Kind.stopSession.code →
          (bodyWord h.body 0).toNat = b.val + 1 → t.xchg.holder[p] = none
          ∧ (TakenIn s.xchg.mem h.slot h.ticket → AnswerIn t.xchg.mem h.slot h.ticket
              (.done .none (showDWord z.number ++ [natWord (causeCode z.cause)]))))
      ∧ t.meter = s.meter ∧ t.allot = s.allot ∧ t.hold = s.hold ∧ t.grid = s.grid ∧ t.store = s.store ∧ t.nv = s.nv
      ∧ t.site = s.site)

/-! ## Receipts -/

/-- R129, R137 to R144, R172: the receipt block write that passes starts a composition attempt. With a slip, room and a
number, the record, the list entry and the indexes are written, the session leaves the table, and the notices follow the
threshold taken at this placement. Without a slip or without room, the wanting marks are set and the attentions of a new
wait raised. What a slip's words hold. -/
def Obligations.ReceiptsAreComposedAndPlaced : Prop :=
  (∀ (base n : Nat) (item : TariffItem) (x : Session) (bill : Bill) (s : State), s.Quiet →
    s.price.active = some ⟨.block .receipt base, item⟩ → s.price.queue = [] → s.price.receipts.asked = some base →
    s.price.receipts.next = some n → s.oldestUnbilled = some x → x.bill = some bill →
    let unread := (s.rcpt.write - s.rcpt.readMark).toNat
    let noSlip := s.rcpt.long.copies.isEmpty && (decide (3 < bill.lines.length) || s.rcpt.short.copies.isEmpty)
    (noSlip = true ∨ unread = 128 →
      let told := if noSlip = true ∧ s.rcpt.wantSlips = false then s.xchg.attn ||| Attention.slips.bit else s.xchg.attn
      exec (.storeWriteComplete .passed) s = .next { s with
        price.active := none, price.lastWrite := .passed, price.receipts := ⟨some n, base, true, some base⟩,
        nv.receipt := base, nv.receiptDamaged := false,
        rcpt.wantSlips := noSlip, rcpt.wantRoom := decide (unread = 128),
        rcpt.slipsOut := if noSlip = true ∧ s.rcpt.wantSlips = false then s.rcpt.slipsOut + 1 else s.rcpt.slipsOut,
        xchg.attn := if unread = 128 ∧ s.rcpt.wantRoom = false then told ||| Attention.full.bit else told })
    ∧ (∀ (long : Bool) (c : OfferCopy),
        bill.lines.length ≤ 3 ∧ long = false ∨ (3 < bill.lines.length ∨ s.rcpt.short.copies = []) ∧ long = true →
        (s.offers long).copies.head? = some c → c.slip ≤ 159 →
        (∀ d, (s.offers long).copies[1]? = some d → d.skip = false) → unread ≠ 128 →
        (∀ y ∈ s.sess.table, y.isOpen = false → y.number = x.number) →
      let l := s.offers long
      let linger := s.site.settings.noticeLinger
      let reached := decide (linger ≠ 0)
        && decide (s.site.settings.noticeThreshold ≤ (s.rcpt.write + 1 - s.rcpt.readMark).toNat) && !s.rcpt.threshold
      (n + 1 ≠ base + 64 →
        ∃ m, exec (.storeWriteComplete .passed) s = .next { s.setOffers long ⟨l.read + 1, l.seen, l.copies.drop 1⟩ with
            price.active := none, price.lastWrite := .passed, price.receipts := ⟨some (n + 1), base, true, some base⟩,
            nv.receipt := base, nv.receiptDamaged := false,
            rcpt.wantSlips := false, rcpt.wantRoom := false, rcpt.write := s.rcpt.write + 1,
            rcpt.unread := s.rcpt.unread ++ [⟨c.slip, n, x.number⟩],
            rcpt.noticeThreshold := s.site.settings.noticeThreshold, rcpt.threshold := reached || s.rcpt.threshold,
            rcpt.linger := if linger = 0 then s.rcpt.linger else if reached = true then none
              else some (s.rcpt.linger.getD (s.elapsed + linger)),
            sess.table := s.sess.table.filter (fun y => decide (y.number ≠ x.number)),
            sess.vouchers := (match x.voucher with
              | none => s.sess.vouchers
              | some code => s.sess.vouchers.filter (fun v => decide (v.code ≠ code))),
            xchg.mem := m,
            xchg.attn := if linger = 0 ∨ reached = true then s.xchg.attn ||| Attention.receipt.bit else s.xchg.attn }
          ∧ m.words (slipBase c.slip) (slipWords c.slip) = slipImage (slipWords c.slip) n x bill
          ∧ m.words (receiptEntry s.rcpt.write) 5 = natWord c.slip :: showDWord n ++ showDWord x.number
          ∧ m.word 0x0F00 = s.rcpt.write + 1 ∧ m.word (offerBase long + 1) = l.read + 1
          ∧ (∀ a, a < 2 * slipBase c.slip ∨ 2 * (slipBase c.slip + slipWords c.slip) ≤ a →
              a < 2 * receiptEntry s.rcpt.write ∨ 2 * (receiptEntry s.rcpt.write + 5) ≤ a →
              a < 2 * 0x0F00 ∨ 2 * 0x0F01 ≤ a → a < 2 * (offerBase long + 1) ∨ 2 * (offerBase long + 2) ≤ a →
              m.read a = s.xchg.mem.read a))
      ∧ (n + 1 = base + 64 → ∃ t, exec (.storeWriteComplete .passed) s = .next t
        ∧ t.rcpt.write = s.rcpt.write + 1 ∧ t.price.receipts.next = some (n + 1) ∧ t.price.receipts.valid = false
        ∧ t.price.receipts.base = base
        ∧ (n + 1 ≤ 4294967232 → ∃ w, t.price.active = some w ∧ w.job = .block .receipt (n + 1)))))
  ∧ (∀ (n : Nat) (x : Session) (bill : Bill),
    let record := showDWord n ++ showDWord x.number
      ++ [natWord (x.bay.val + 1), natWord (match x.authority with
          | .voucher => 1
          | .account => 2
          | .free => 3)]
      ++ (match x.account with
          | none => List.replicate 9 0
          | some account => 1 :: fieldWords 8 account)
      ++ showDWord x.opened ++ showDWord (x.closed.getD 0) ++ [natWord (causeCode x.cause)]
      ++ showDWord x.total ++ showDWord x.sun ++ showDWord x.battery ++ showDWord x.grid
      ++ (match x.voucher with
          | none => List.replicate 5 0
          | some code => 1 :: fieldWords 4 code)
      ++ showDWord bill.credit ++ [natWord bill.lines.length] ++ showDWord bill.total
      ++ bill.lines.flatMap (fun l => [natWord (match l.kind with
            | .energy => 1
            | .idle => 2
            | .voucher => 3), natWord l.band] ++ dwordWords l.generation ++ showDWord l.figure ++ showDWord l.amount)
    let check := xorHalves record
    record.length = 38 + 8 * bill.lines.length
    ∧ (bill.lines.length ≤ 3 →
        slipImage 64 n x bill = record ++ List.replicate (62 - record.length) 0 ++ [check.1, check.2])
    ∧ (bill.lines.length ≤ 20 →
        slipImage 256 n x bill = record ++ List.replicate (254 - record.length) 0 ++ [check.1, check.2]))

/-- R65 to R76: the grants of the normal round that an accepted sample starts in RUN. The budget is R67's, from the sample and
the import cap and discharge allowance that the round has read. The charging set in grant order keeps as many bays as the
budget has minima for and the rest are held back (R72); bays are admitted from the head of the wait list (R73); the quanta left
go to the bays in CHARGING so that all of them are given out or all rooms are filled, that no bay with room left has two less
than another, and that the odd ones go to the bays first in grant order (R74); a rise is cut to 3600 W (R75); the mark moves
(R69); the bays move with their SHOW frames, and every NAMED bay without a PARK queued has its GRANT (R76). A sample that makes
the grid LOST takes the charging set to the wait list before the round (R96). -/
def Obligations.NormalRoundsShareTheBudget : Prop :=
  ∀ (m : SampleFrame) (bytes : List MeterByte) (s : State), s.Quiet → s.site.run = .run →
    s.meter.receiver.spells bytes = some m → s.sampleGood m = true →
    let lost := decide (m.present ≠ 1) && decide (s.grid.state ≠ .lost)
    let charging := if lost then [] else s.poweredBays
    let waiting := if lost then s.allot.waitList ++ s.poweredBays else s.allot.waitList
    let room := fun (b : BayIx) => (s.recOf (.bay b)).rating - 14
    ∃ t, exec (.sampleReceived bytes) s = .next t ∧
      let budget := t.allot.budget
      let kept := charging.take (budget / 1400)
      let held := charging.drop (budget / 1400)
      let left := budget - 1400 * kept.length
      let admitted := if t.grid.state = .present ∧ t.hold.state ≠ .missed then waiting.take (left / 1400) else []
      let raised := fun (b : BayIx) =>
        admitted.contains b || kept.contains b && decide ((s.bayOf b).state = .charging)
      let moved := if lost then s.poweredBays else held
      budget = min s.site.settings.feederLimit ((t.importCap : Int) + m.canopy.toNat + t.store.discharge
          - m.shop.toNat - s.site.settings.margin).toNat
      ∧ t.grantSum ≤ budget
      ∧ (∃ quanta : BayIx → Nat,
          (∀ b, quanta b ≤ if raised b then room b else 0)
          ∧ ((List.finRange 24).map quanta).sum
              = min ((left - 1400 * admitted.length) / 100) ((s.order.filter raised).map room).sum
          ∧ (∀ b c, raised b = true → quanta b < room b → quanta c ≤ quanta b + 1
              ∧ (quanta c = quanta b + 1 → s.order.idxOf c < s.order.idxOf b))
          ∧ ∀ b, t.grantOf b = if b ∈ kept ∨ b ∈ admitted then min (1400 + 100 * quanta b) (s.grantOf b + 3600) else 0)
      ∧ t.allot.mark = (match s.order.find? (fun b => !s.priorityOf b && decide (t.grantOf b ≠ 0)) with
          | none => s.allot.mark
          | some b => b)
      ∧ t.allot.waitList = waiting.drop admitted.length ++ held
      ∧ (∀ b, b ∉ admitted → b ∉ moved → t.bayOf b = s.bayOf b)
      ∧ (∀ b ∈ moved, b ∉ admitted → t.bayOf b = { s.bayOf b with
          state := .awaitPower, change := (s.bayOf b).change + 1, lowStart := none, highCount := 0 })
      ∧ (∀ b ∈ admitted, (s.bayOf b).state = .awaitPower → t.bayOf b = { s.bayOf b with
          state := .charging, change := (s.bayOf b).change + 1, lowStart := none, highCount := 0 })
      ∧ t.sess.table = s.sess.table.map (fun z => if z.isOpen = true ∧ z.bay ∈ moved then
          { z with idle := match z.idle.running with
              | none => z.idle
              | some began => ⟨z.idle.seconds + (s.elapsed - began), none, z.idle.first⟩ }
          else z)
      ∧ ((∃ b, (t.bayOf b).state ≠ (s.bayOf b).state) → t.xchg.attn &&& Attention.bay.bit ≠ 0)
      ∧ (∀ b, (s.recOf (.bay b)).link = .named →
          (b ∈ admitted → ∃ e ∈ t.link.ordinary, e.frame = ⟨some (.bay b), .show .charging⟩)
          ∧ (b ∈ moved → b ∉ admitted → ∃ e ∈ t.link.ordinary, e.frame = ⟨some (.bay b), .show .waiting⟩))
      ∧ (∀ b, let r := s.recOf (.bay b)
          let units := t.grantOf b / 100
          let due := r.link = .named ∧ s.queued .park (.bay b) = false
          t.recOf (.bay b) = (if due then { r with issuedGrant := units } else r)
          ∧ (due → units ≠ r.issuedGrant ∨ b ∈ moved →
            ∃ e ∈ (if units = 0 ∨ units < r.issuedGrant then t.link.urgent else t.link.ordinary),
              e.frame = ⟨some (.bay b), .grant units⟩)
          ∧ (¬ due ∨ units = r.issuedGrant ∧ b ∉ moved → ∀ e : LaneEntry, e.holds .grant (some (.bay b)) = true →
            (e ∈ t.link.urgent ↔ e ∈ s.link.urgent) ∧ (e ∈ t.link.ordinary ↔ e ∈ s.link.ordinary)))
      ∧ t.xchg.rewriting = true

/-- R59, R66, R88: the demand allowance, the effective hold limit, and the import cap as the lowest of the values that take
part. -/
def Obligations.TheImportCapIsTheLowestLimit : Prop :=
  ∀ s : State,
    let target := s.site.settings.intervalTarget
    (target = 0 → s.demand? = none)
    ∧ (target ≠ 0 → target ≤ s.meter.used → s.demand? = some 0)
    ∧ (s.meter.used < target → s.meter.intervalStart ≤ s.xchg.clock → s.xchg.clock < s.meter.intervalStart + 900 →
        s.demand? = some ((target - s.meter.used) * 3600 / (s.meter.intervalStart + 900 - s.xchg.clock)))
    ∧ (s.effectiveLimit = match s.hold.lineActive, s.hold.request with
        | false, none => none
        | true, none => some s.site.settings.holdLineLimit
        | false, some r => some r.limit
        | true, some r => some (min s.site.settings.holdLineLimit r.limit))
    ∧ s.importCap ≤ s.site.settings.importCap ∧ (∀ d, s.demand? = some d → s.importCap ≤ d)
    ∧ (s.hold.state ≠ .clear → ∀ l, s.effectiveLimit = some l → s.importCap ≤ l)
    ∧ (s.importCap = s.site.settings.importCap ∨ s.demand? = some s.importCap
      ∨ s.hold.state ≠ .clear ∧ s.effectiveLimit = some s.importCap)

/-- R53, R81, R82: the meter lost, and the blind rounds that lower the grants of the CHARGING bays to 1400 W. The min of
R82's lowering is log entry 33's. -/
def Obligations.TheLostMeterLowersTheGrants : Prop :=
  ∀ (w : Nat) (s : State), s.Quiet →
    (s.meter.state = .blind → exec .meterLost s = .next s)
    ∧ (s.meter.watch = none ∨ s.meter.watch = some w ∧ s.elapsed < w + 3 → exec .meterLost s = .next s)
    ∧ (s.meter.state = .live → s.meter.watch = some w → w + 3 ≤ s.elapsed → s.site.run = .run →
      ∃ t, exec .meterLost s = .next t
        ∧ t.meter = { s.meter with state := .blind, watch := none, shares := ⟨0, 0, 1000⟩ }
        ∧ t.allot.blindBudget = s.grantSum ∧ t.allot.blindTimer = true
        ∧ t.xchg.attn = s.xchg.attn ||| Attention.meter.bit
        ∧ (∀ b, t.grantOf b = if (s.bayOf b).state = .charging then min (s.grantOf b) 1400 else s.grantOf b)
        ∧ t.allot.waitList = s.allot.waitList ∧ t.sess = s.sess ∧ t.hold = s.hold ∧ t.rcpt = s.rcpt ∧ t.price = s.price)
    ∧ (s.meter.state = .live → s.meter.watch = some w → w + 3 ≤ s.elapsed → s.site.run = .halted →
      exec .meterLost s = .next { s with
        meter.state := .blind, meter.watch := none, meter.shares := ⟨0, 0, 1000⟩, allot.blindBudget := s.grantSum,
        xchg.attn := s.xchg.attn ||| Attention.meter.bit })
    ∧ (¬ (s.allot.blindTimer = true ∧ s.meter.state = .blind ∧ s.site.run = .run) → exec .blindTimer s = .next s)
    ∧ (s.allot.blindTimer = true → s.meter.state = .blind → s.site.run = .run → ∃ t, exec .blindTimer s = .next t
        ∧ (∀ b, t.grantOf b = if (s.bayOf b).state = .charging then min (s.grantOf b) 1400 else s.grantOf b)
        ∧ t.allot.stance = .idle
        ∧ t.allot.setpoint = (if s.store.condition = .backup then .formGrid else .watts 0)
        ∧ t.allot.ceilings = s.allot.ceilings ∧ t.allot.waitList = s.allot.waitList ∧ t.allot.mark = s.allot.mark
        ∧ t.meter = s.meter ∧ t.sess = s.sess ∧ t.hold = s.hold ∧ t.rcpt = s.rcpt ∧ t.price = s.price)

/-! ## The hold and the grid -/

/-- R86, R88, R91, R92: a change of HOLD_IN. With no request source, the line becoming active in CLEAR asks a hold, and the
line becoming inactive releases it, from MISSED as well, where the Store Unit's view and allowances follow. With a request
source, its limit stands on: a line that lowers the limit in REQUESTED or MET asks anew, and one that does not changes the
line source alone. -/
def Obligations.TheHoldLineSetsTheHold : Prop :=
  ∀ (level : Bool) (s : State), s.Quiet →
    let grid := { s.xchg with attn := s.xchg.attn ||| Attention.grid.bit }
    let active := level != s.site.straps.holdpol
    (s.hold.request = none → s.hold.lineActive = false → s.hold.state = .clear → active = true →
      ∃ x : ExchangeUnit, exec (.holdLineChange level) s = .next { s with
          site.holdIn := level, hold := ⟨true, none, .requested, some (s.elapsed + 60), 0, false⟩, xchg := x }
        ∧ PageAsked grid x s.elapsed)
    ∧ (s.hold.request = none → active = false → s.hold.lineActive = true →
        s.hold.state = .met ∨ s.hold.state = .requested →
      ∃ x : ExchangeUnit, exec (.holdLineChange level) s = .next { s with
          site.holdIn := level, hold := ⟨false, none, .clear, none, 0, false⟩, xchg := x }
        ∧ PageAsked grid x s.elapsed)
    ∧ (s.hold.request = none → active = false → s.hold.lineActive = true → s.hold.state = .missed →
      ∃ t, exec (.holdLineChange level) s = .next t ∧ t.hold = ⟨false, none, .clear, none, 0, false⟩
        ∧ t.site = { s.site with holdIn := level } ∧ t.store.holdMissed = false
        ∧ (s.store.holdMissed = true →
          t.store.discharge = dischargeAllowance s.store.condition false s.store.reserve s.site.settings.dischargeLimit
              (s.store.rating * 100)
          ∧ t.store.charge = chargeAllowance s.store.condition s.site.settings.chargeLimit (s.store.rating * 100))
        ∧ t.store.condition = s.store.condition ∧ PageAsked grid t.xchg s.elapsed
        ∧ t.allot.grants = s.allot.grants ∧ t.allot.waitList = s.allot.waitList ∧ t.sess = s.sess ∧ t.meter = s.meter
        ∧ t.grid = s.grid ∧ t.rcpt = s.rcpt ∧ t.price = s.price)
    ∧ (∀ r, s.hold.request = some r → s.hold.lineActive = false → active = true →
      (s.site.settings.holdLineLimit < r.limit → s.hold.state = .met →
        ∃ x : ExchangeUnit, exec (.holdLineChange level) s = .next { s with
            site.holdIn := level, hold := ⟨true, some r, .requested, some (s.elapsed + 60), 0, false⟩, xchg := x }
          ∧ PageAsked grid x s.elapsed)
      ∧ (s.site.settings.holdLineLimit < r.limit → s.hold.state = .requested →
        exec (.holdLineChange level) s = .next { s with
          site.holdIn := level, hold.lineActive := true, hold.deadline := some (s.elapsed + 60), hold.good := 0 })
      ∧ (s.site.settings.holdLineLimit < r.limit → s.hold.state = .missed →
        exec (.holdLineChange level) s = .next { s with
          site.holdIn := level, hold.lineActive := true, hold.good := 0 })
      ∧ (r.limit ≤ s.site.settings.holdLineLimit → exec (.holdLineChange level) s = .next { s with
          site.holdIn := level, hold.lineActive := true }))
    ∧ (∀ r, s.hold.request = some r → s.hold.lineActive = true → active = false →
      exec (.holdLineChange level) s = .next { s with site.holdIn := level, hold.lineActive := false })
    ∧ (active = s.hold.lineActive → exec (.holdLineChange level) s = .next { s with site.holdIn := level })

/-- R90, R91, R93, R94: the deadline passes in REQUESTED. The bays in CHARGING and SATED join the tail of the wait list in grant
order, a GRANT 0 waits for each NAMED one without a PARK queued, and the held GRID_HOLD is answered MISSED. -/
def Obligations.TheDeadlineEscalates : Prop :=
  ∀ (d : Nat) (s : State), s.Quiet →
    (s.hold.state ≠ .requested ∨ s.hold.deadline = none ∨ s.hold.deadline = some d ∧ s.elapsed < d →
        exec .holdDeadline s = .next s)
    ∧ (s.hold.state = .requested → s.hold.deadline = some d → d ≤ s.elapsed → ∃ t, exec .holdDeadline s = .next t
        ∧ t.hold.state = .missed ∧ t.hold.deadline = none ∧ t.hold.good = s.hold.good ∧ t.hold.ack = false
        ∧ t.store.holdMissed = true
        ∧ (∀ b, (s.bayOf b).state.powered = true →
            (t.bayOf b).state = .awaitPower ∧ t.grantOf b = 0 ∧ b ∈ t.allot.waitList)
        ∧ (∀ b, (s.bayOf b).state.powered = false → t.bayOf b = s.bayOf b ∧ t.grantOf b = s.grantOf b)
        ∧ t.allot.waitList = s.allot.waitList ++ s.poweredBays
        ∧ (s.site.run = .run → ∀ b, (s.bayOf b).state.powered = true → (s.recOf (.bay b)).link = .named →
          (∃ e ∈ t.link.ordinary, e.frame = ⟨some (.bay b), .show .waiting⟩)
          ∧ (s.queued .park (.bay b) = false → (t.recOf (.bay b)).issuedGrant = 0
            ∧ ∃ e ∈ t.link.urgent, e.frame = ⟨some (.bay b), .grant 0⟩))
        ∧ (∀ (r : HoldRequest) (p : Fin 8) (h : Held), s.hold.request = some r → r.asker = some p →
          s.xchg.holder[p] = some h → t.xchg.holder[p] = none ∧ t.hold.request = some { r with asker := none }
          ∧ (TakenIn s.xchg.mem h.slot h.ticket → AnswerIn t.xchg.mem h.slot h.ticket (.done .missed
              (showDWord (if s.hold.lineActive then min s.site.settings.holdLineLimit r.limit else r.limit)
                ++ [natWord s.hold.good]))))
        ∧ t.xchg.attn &&& Attention.grid.bit ≠ 0 ∧ t.meter = s.meter ∧ t.rcpt = s.rcpt ∧ t.price = s.price
        ∧ t.sess.vouchers = s.sess.vouchers ∧ t.sess.table.length = s.sess.table.length)

/-- R87, R88, R92, R93, R94: the end time of the request source passes. The held GRID_HOLD is answered EXPIRED, with the limit
that is left (log entry 36) and the count. With the line source active the hold goes on as it was; with none it becomes CLEAR
with HOLD_ACK released and GRID attention. -/
def Obligations.TheRequestSourceEnds : Prop :=
  ∀ s : State, s.Quiet →
    (s.hold.request = none ∨ (∃ r, s.hold.request = some r ∧ s.elapsed < r.endTime) →
        exec .holdRequestEnd s = .next s)
    ∧ (∀ r, s.hold.request = some r → r.endTime ≤ s.elapsed → ∃ t, exec .holdRequestEnd s = .next t ∧ t.hold.request = none
        ∧ (s.hold.lineActive = false → t.hold.state = .clear ∧ t.hold.deadline = none ∧ t.hold.good = 0)
        ∧ t.hold.lineActive = s.hold.lineActive ∧ t.sess = s.sess ∧ t.meter = s.meter ∧ t.grid = s.grid
        ∧ t.rcpt = s.rcpt ∧ t.price = s.price ∧ t.allot.grants = s.allot.grants
        ∧ (s.hold.lineActive = true → t.hold = { s.hold with request := none } ∧ t.store = s.store ∧ t.allot = s.allot
          ∧ t.link = s.link)
        ∧ (s.hold.lineActive = false → s.hold.state ≠ .clear → t.hold.ack = false ∧ t.xchg.attn &&& Attention.grid.bit ≠ 0
          ∧ (s.hold.state = .missed → t.store.holdMissed = false))
        ∧ (∀ p : Fin 8, r.asker ≠ some p → t.xchg.holder[p] = s.xchg.holder[p])
        ∧ (∀ p : Fin 8, r.asker = some p → t.xchg.holder[p] = none)
        ∧ (∀ (p : Fin 8) (h : Held), r.asker = some p → s.xchg.holder[p] = some h → TakenIn s.xchg.mem h.slot h.ticket →
          AnswerIn t.xchg.mem h.slot h.ticket (.done .expired
            (showDWord (if s.hold.lineActive then s.site.settings.holdLineLimit else 0) ++ [natWord t.hold.good]))
          ∧ t.xchg.attn &&& Attention.slot.bit ≠ 0))

/-- R97: the return timer runs out. -/
def Obligations.TheReturnTimerRunsOut : Prop :=
  ∀ (expiry : Nat) (s : State), s.Quiet →
    (s.grid = ⟨.returning, .running expiry⟩ → expiry ≤ s.elapsed → s.meter.state = .live → ∃ t, exec .returnTimer s = .next t
        ∧ t.grid = ⟨.present, .stopped⟩ ∧ t.store.gridAbsent = false ∧ t.store.condition ≠ .backup
        ∧ t.xchg.attn &&& Attention.grid.bit ≠ 0 ∧ t.sess = s.sess ∧ t.meter = s.meter ∧ t.hold = s.hold
        ∧ t.rcpt = s.rcpt ∧ t.price = s.price ∧ t.allot.grants = s.allot.grants)
    ∧ (s.grid = ⟨.returning, .running expiry⟩ → expiry ≤ s.elapsed → s.meter.state = .blind →
        exec .returnTimer s = .next { s with grid := ⟨.returning, .runOut⟩ })
    ∧ (s.grid.state ≠ .returning ∨ (∃ n, s.grid.timer = .running n ∧ s.elapsed < n) → exec .returnTimer s = .next s)

/-! ## Energy, prices and slips -/

/-- R116: the split of an increment, its residues and their bounds. -/
def Obligations.TheSplitLosesNoEnergy : Prop :=
  ∀ (inc sunRes batteryRes : Nat) (sh : Shares), sh.sun + sh.battery + sh.grid = 1000 → sunRes ≤ 999 →
    batteryRes + sunRes ≤ 1998 →
    let r := splitEnergy inc sh sunRes batteryRes
    r.sun + r.battery + r.grid = inc
      ∧ r.sun = (inc * sh.sun + sunRes) / 1000
      ∧ r.battery = min ((inc * sh.battery + batteryRes) / 1000) (inc - r.sun)
      ∧ inc * sh.sun + sunRes = 1000 * r.sun + r.sunRes
      ∧ inc * sh.battery + batteryRes = 1000 * r.battery + r.batteryRes
      ∧ r.sunRes ≤ 999 ∧ r.batteryRes + r.sunRes ≤ 1998

/-- R77 to R80, R105, R106, R110: step 6 of the normal round that an accepted sample starts in RUN, from the grants that the
round has given: the allowances and top-up of the Store Unit, the setpoint and stance by the first branch of R77 that applies,
the ceilings by the export that is left, and their SETPOINT and CAP frames. Every setpoint that R77 chooses lies within the
allowances. -/
def Obligations.NormalRoundsSetTheBattery : Prop :=
  (∀ (m : SampleFrame) (bytes : List MeterByte) (s : State), s.Quiet → s.site.run = .run →
    s.meter.receiver.spells bytes = some m → s.sampleGood m = true →
    ∃ t, exec (.sampleReceived bytes) s = .next t ∧
      let net : Int := (m.shop.toNat : Int) + t.grantSum - m.canopy.toNat
      let cap := t.importCap
      let part := fun (i : StringIx) => decide ((s.recOf (.string i)).link = .named) && decide ((s.stringOf i).link = .up)
        && decide ((s.stringOf i).fault = 0) && (s.stringOf i).output.isSome
      let parts := ((List.finRange 6).filter part).length
      let cut := ((List.finRange 6).filter (fun i => part i && (s.allot.ceilings[i]).isSome)).length
      let ordered := match t.allot.setpoint with
        | .watts w => (-w).toNat
        | .formGrid => 0
      let exported := (-net - ordered).toNat
      let limit := s.site.settings.exportLimit
      let chosen := fun (w : Int) (st : Stance) =>
        t.allot.setpoint = .watts w ∧ t.allot.stance = if w = 0 then .idle else st
      t.store.discharge = dischargeAllowance t.store.condition t.store.holdMissed t.store.reserve
          s.site.settings.dischargeLimit (s.store.rating * 100)
      ∧ t.store.charge = chargeAllowance t.store.condition s.site.settings.chargeLimit (s.store.rating * 100)
      ∧ (t.store.topUp = true ↔ (t.store.condition = .ready ∨ t.store.condition = .reserve)
          ∧ (∃ c, s.store.soc = some c ∧ c < s.site.settings.topUpTarget) ∧ ∃ n b, s.band = some (n, b) ∧ b.topUp = true)
      ∧ (t.store.condition = .backup → t.allot.setpoint = .formGrid ∧ t.allot.stance = .idle
          ∧ t.allot.ceilings = s.allot.ceilings)
      ∧ (t.store.condition ≠ .backup →
        ((cap : Int) < net → chosen (min (net - cap) t.store.discharge) .supporting)
        ∧ (net < 0 → chosen (-(min (-net) t.store.charge)) .soaking)
        ∧ (0 ≤ net → net ≤ cap → t.store.topUp = true → chosen (-(min (cap - net) t.store.charge)) .topping)
        ∧ (0 ≤ net → net ≤ cap → t.store.topUp = false → chosen 0 .idle)
        ∧ (∀ i : Fin 6, part i = false → t.allot.ceilings[i] = s.allot.ceilings[i])
        ∧ (∀ i : Fin 6, part i = true → limit < exported → t.allot.ceilings[i] = some
            ((min (100 * (s.allot.ceilings[i]).getD (s.stringOf i).rating) ((s.stringOf i).output.getD 0)
              - 100 * ((exported - limit + 100 * parts - 1) / (100 * parts))) / 100))
        ∧ (∀ i : Fin 6, part i = true → exported ≤ limit → t.allot.ceilings[i] = match s.allot.ceilings[i] with
            | none => none
            | some c =>
              let share := (limit - exported) / (100 * cut)
              if share = 0 then some c else if (s.stringOf i).rating ≤ c + share then none else some (c + share)))
      ∧ (let r := s.recOf .store
         (r.link ≠ .named → t.recOf .store = r)
          ∧ (r.link = .named → t.recOf .store = { r with issuedSetpoint := t.allot.setpoint }
            ∧ (t.allot.setpoint ≠ r.issuedSetpoint →
              (∃ e ∈ t.link.urgent ++ t.link.ordinary, e.frame = ⟨some .store, .setpoint t.allot.setpoint⟩)
              ∧ (t.store.condition = s.store.condition → t.hold = s.hold →
                ∃ e ∈ (if t.allot.setpoint = .formGrid ∨ r.issuedSetpoint.level < t.allot.setpoint.level then t.link.urgent
                  else t.link.ordinary), e.frame = ⟨some .store, .setpoint t.allot.setpoint⟩))))
      ∧ (∀ i : Fin 6, let r := s.recOf (.string i)
         let units := (t.allot.ceilings[i]).getD (s.stringOf i).rating
         (r.link ≠ .named → t.recOf (.string i) = r)
          ∧ (r.link = .named → t.recOf (.string i) = { r with issuedCap := units }
            ∧ (units ≠ r.issuedCap → ∃ e ∈ (if units < r.issuedCap then t.link.urgent else t.link.ordinary),
                e.frame = ⟨some (.string i), .cap units⟩))))
  ∧ (∀ (net : Int) (cap discharge charge : Nat) (topUp : Bool),
    let c := chooseSetpoint net cap discharge charge topUp
    c.1 ≤ discharge ∧ -(charge : Int) ≤ c.1 ∧ (c.1 = 0 ↔ c.2 = .idle) ∧ (0 < c.1 → c.2 = .supporting))

/-- R118: the band in force of a table at a local minute; and that the state's band in force is the one of its table at its
local minute, floor(((site clock + local offset) mod 86400) / 60), with its number, or none and 0 for an empty table. -/
def Obligations.TheBandInForceIsTheLastStarted : Prop :=
  (∀ (bands : List Band) (minute : Nat), ascending bands = true → bands ≠ [] →
    ∃ n b, bandInForce bands minute = some (n, b) ∧ 1 ≤ n ∧ bands[n - 1]? = some b
      ∧ (b.startMinute ≤ minute → ∀ c ∈ bands, c.startMinute ≤ minute → c.startMinute ≤ b.startMinute)
      ∧ (minute < b.startMinute → (∀ c ∈ bands, minute < c.startMinute) ∧ ∀ c ∈ bands, c.startMinute ≤ b.startMinute))
  ∧ (∀ s : State,
    let minute := ((s.xchg.clock : Int) + s.xchg.offset) % 86400 / 60
    0 ≤ minute ∧ minute < 1440 ∧ s.band = bandInForce s.price.bands minute.toNat
      ∧ (s.price.bands = [] → s.band = none)
      ∧ s.bandNumber = match s.band with
        | none => 0
        | some r => r.1)

end
end

