-- ==== Sys2Proof/Laws/State.lean ====
section
/-!
SUPPORT. The fields of the named updates of a state, one lemma for each field and update, and reading back a record that
was set.
-/
namespace Sys2Proof.Machine

set_option Elab.async false

@[simp] theorem writeWords_link (s : State) (a : Nat) (ws : List Word) : (s.writeWords a ws).link = s.link := rfl
@[simp] theorem writeWords_sess (s : State) (a : Nat) (ws : List Word) : (s.writeWords a ws).sess = s.sess := rfl
@[simp] theorem writeWords_meter (s : State) (a : Nat) (ws : List Word) : (s.writeWords a ws).meter = s.meter := rfl
@[simp] theorem writeWords_allot (s : State) (a : Nat) (ws : List Word) : (s.writeWords a ws).allot = s.allot := rfl
@[simp] theorem writeWords_hold (s : State) (a : Nat) (ws : List Word) : (s.writeWords a ws).hold = s.hold := rfl
@[simp] theorem writeWords_grid (s : State) (a : Nat) (ws : List Word) : (s.writeWords a ws).grid = s.grid := rfl
@[simp] theorem writeWords_store (s : State) (a : Nat) (ws : List Word) : (s.writeWords a ws).store = s.store := rfl
@[simp] theorem writeWords_price (s : State) (a : Nat) (ws : List Word) : (s.writeWords a ws).price = s.price := rfl
@[simp] theorem writeWords_nv (s : State) (a : Nat) (ws : List Word) : (s.writeWords a ws).nv = s.nv := rfl
@[simp] theorem writeWords_rcpt (s : State) (a : Nat) (ws : List Word) : (s.writeWords a ws).rcpt = s.rcpt := rfl
@[simp] theorem writeWords_xchg (s : State) (a : Nat) (ws : List Word) :
    (s.writeWords a ws).xchg = { s.xchg with mem := s.xchg.mem.storeWords a ws } := rfl
@[simp] theorem writeWords_site (s : State) (a : Nat) (ws : List Word) : (s.writeWords a ws).site = s.site := rfl
@[simp] theorem writeWords_elapsed (s : State) (a : Nat) (ws : List Word) :
    (s.writeWords a ws).elapsed = s.elapsed := rfl
@[simp] theorem writeWords_inReset (s : State) (a : Nat) (ws : List Word) :
    (s.writeWords a ws).inReset = s.inReset := rfl
@[simp] theorem writeWords_restartDue (s : State) (a : Nat) (ws : List Word) :
    (s.writeWords a ws).restartDue = s.restartDue := rfl
@[simp] theorem writeWords_roundsAsked (s : State) (a : Nat) (ws : List Word) :
    (s.writeWords a ws).roundsAsked = s.roundsAsked := rfl
@[simp] theorem writeWords_pageAsks (s : State) (a : Nat) (ws : List Word) :
    (s.writeWords a ws).pageAsks = s.pageAsks := rfl
@[simp] theorem writeWords_spiData (s : State) (a : Nat) (ws : List Word) :
    (s.writeWords a ws).spiData = s.spiData := rfl
@[simp] theorem writeWords_pending (s : State) (a : Nat) (ws : List Word) :
    (s.writeWords a ws).pending = s.pending := rfl

@[simp] theorem raise_link (s : State) (b : Attention) : (s.raise b).link = s.link := rfl
@[simp] theorem raise_sess (s : State) (b : Attention) : (s.raise b).sess = s.sess := rfl
@[simp] theorem raise_meter (s : State) (b : Attention) : (s.raise b).meter = s.meter := rfl
@[simp] theorem raise_allot (s : State) (b : Attention) : (s.raise b).allot = s.allot := rfl
@[simp] theorem raise_hold (s : State) (b : Attention) : (s.raise b).hold = s.hold := rfl
@[simp] theorem raise_grid (s : State) (b : Attention) : (s.raise b).grid = s.grid := rfl
@[simp] theorem raise_store (s : State) (b : Attention) : (s.raise b).store = s.store := rfl
@[simp] theorem raise_price (s : State) (b : Attention) : (s.raise b).price = s.price := rfl
@[simp] theorem raise_nv (s : State) (b : Attention) : (s.raise b).nv = s.nv := rfl
@[simp] theorem raise_rcpt (s : State) (b : Attention) : (s.raise b).rcpt = s.rcpt := rfl
@[simp] theorem raise_xchg (s : State) (b : Attention) :
    (s.raise b).xchg = { s.xchg with attn := s.xchg.attn ||| b.bit } := rfl
@[simp] theorem raise_site (s : State) (b : Attention) : (s.raise b).site = s.site := rfl
@[simp] theorem raise_elapsed (s : State) (b : Attention) : (s.raise b).elapsed = s.elapsed := rfl
@[simp] theorem raise_inReset (s : State) (b : Attention) : (s.raise b).inReset = s.inReset := rfl
@[simp] theorem raise_restartDue (s : State) (b : Attention) : (s.raise b).restartDue = s.restartDue := rfl
@[simp] theorem raise_roundsAsked (s : State) (b : Attention) : (s.raise b).roundsAsked = s.roundsAsked := rfl
@[simp] theorem raise_pageAsks (s : State) (b : Attention) : (s.raise b).pageAsks = s.pageAsks := rfl
@[simp] theorem raise_spiData (s : State) (b : Attention) : (s.raise b).spiData = s.spiData := rfl
@[simp] theorem raise_pending (s : State) (b : Attention) : (s.raise b).pending = s.pending := rfl

@[simp] theorem setRec_link (s : State) (t : Target) (r : ModuleRec) :
    (s.setRec t r).link = { s.link with recs := s.link.recs.set t.ix r } := rfl
@[simp] theorem setRec_sess (s : State) (t : Target) (r : ModuleRec) : (s.setRec t r).sess = s.sess := rfl
@[simp] theorem setRec_meter (s : State) (t : Target) (r : ModuleRec) : (s.setRec t r).meter = s.meter := rfl
@[simp] theorem setRec_allot (s : State) (t : Target) (r : ModuleRec) : (s.setRec t r).allot = s.allot := rfl
@[simp] theorem setRec_hold (s : State) (t : Target) (r : ModuleRec) : (s.setRec t r).hold = s.hold := rfl
@[simp] theorem setRec_grid (s : State) (t : Target) (r : ModuleRec) : (s.setRec t r).grid = s.grid := rfl
@[simp] theorem setRec_store (s : State) (t : Target) (r : ModuleRec) : (s.setRec t r).store = s.store := rfl
@[simp] theorem setRec_price (s : State) (t : Target) (r : ModuleRec) : (s.setRec t r).price = s.price := rfl
@[simp] theorem setRec_nv (s : State) (t : Target) (r : ModuleRec) : (s.setRec t r).nv = s.nv := rfl
@[simp] theorem setRec_rcpt (s : State) (t : Target) (r : ModuleRec) : (s.setRec t r).rcpt = s.rcpt := rfl
@[simp] theorem setRec_xchg (s : State) (t : Target) (r : ModuleRec) : (s.setRec t r).xchg = s.xchg := rfl
@[simp] theorem setRec_site (s : State) (t : Target) (r : ModuleRec) : (s.setRec t r).site = s.site := rfl
@[simp] theorem setRec_elapsed (s : State) (t : Target) (r : ModuleRec) : (s.setRec t r).elapsed = s.elapsed := rfl
@[simp] theorem setRec_inReset (s : State) (t : Target) (r : ModuleRec) : (s.setRec t r).inReset = s.inReset := rfl
@[simp] theorem setRec_restartDue (s : State) (t : Target) (r : ModuleRec) :
    (s.setRec t r).restartDue = s.restartDue := rfl
@[simp] theorem setRec_roundsAsked (s : State) (t : Target) (r : ModuleRec) :
    (s.setRec t r).roundsAsked = s.roundsAsked := rfl
@[simp] theorem setRec_pageAsks (s : State) (t : Target) (r : ModuleRec) : (s.setRec t r).pageAsks = s.pageAsks := rfl
@[simp] theorem setRec_spiData (s : State) (t : Target) (r : ModuleRec) : (s.setRec t r).spiData = s.spiData := rfl
@[simp] theorem setRec_pending (s : State) (t : Target) (r : ModuleRec) : (s.setRec t r).pending = s.pending := rfl

@[simp] theorem setBay_link (s : State) (b : BayIx) (r : BayRec) : (s.setBay b r).link = s.link := rfl
@[simp] theorem setBay_sess (s : State) (b : BayIx) (r : BayRec) :
    (s.setBay b r).sess = { s.sess with bays := s.sess.bays.set b r } := rfl
@[simp] theorem setBay_meter (s : State) (b : BayIx) (r : BayRec) : (s.setBay b r).meter = s.meter := rfl
@[simp] theorem setBay_allot (s : State) (b : BayIx) (r : BayRec) : (s.setBay b r).allot = s.allot := rfl
@[simp] theorem setBay_hold (s : State) (b : BayIx) (r : BayRec) : (s.setBay b r).hold = s.hold := rfl
@[simp] theorem setBay_grid (s : State) (b : BayIx) (r : BayRec) : (s.setBay b r).grid = s.grid := rfl
@[simp] theorem setBay_store (s : State) (b : BayIx) (r : BayRec) : (s.setBay b r).store = s.store := rfl
@[simp] theorem setBay_price (s : State) (b : BayIx) (r : BayRec) : (s.setBay b r).price = s.price := rfl
@[simp] theorem setBay_nv (s : State) (b : BayIx) (r : BayRec) : (s.setBay b r).nv = s.nv := rfl
@[simp] theorem setBay_rcpt (s : State) (b : BayIx) (r : BayRec) : (s.setBay b r).rcpt = s.rcpt := rfl
@[simp] theorem setBay_xchg (s : State) (b : BayIx) (r : BayRec) : (s.setBay b r).xchg = s.xchg := rfl
@[simp] theorem setBay_site (s : State) (b : BayIx) (r : BayRec) : (s.setBay b r).site = s.site := rfl
@[simp] theorem setBay_elapsed (s : State) (b : BayIx) (r : BayRec) : (s.setBay b r).elapsed = s.elapsed := rfl
@[simp] theorem setBay_inReset (s : State) (b : BayIx) (r : BayRec) : (s.setBay b r).inReset = s.inReset := rfl
@[simp] theorem setBay_restartDue (s : State) (b : BayIx) (r : BayRec) :
    (s.setBay b r).restartDue = s.restartDue := rfl
@[simp] theorem setBay_roundsAsked (s : State) (b : BayIx) (r : BayRec) :
    (s.setBay b r).roundsAsked = s.roundsAsked := rfl
@[simp] theorem setBay_pageAsks (s : State) (b : BayIx) (r : BayRec) : (s.setBay b r).pageAsks = s.pageAsks := rfl
@[simp] theorem setBay_spiData (s : State) (b : BayIx) (r : BayRec) : (s.setBay b r).spiData = s.spiData := rfl
@[simp] theorem setBay_pending (s : State) (b : BayIx) (r : BayRec) : (s.setBay b r).pending = s.pending := rfl

@[simp] theorem setGrant_link (s : State) (b : BayIx) (w : Nat) : (s.setGrant b w).link = s.link := rfl
@[simp] theorem setGrant_sess (s : State) (b : BayIx) (w : Nat) : (s.setGrant b w).sess = s.sess := rfl
@[simp] theorem setGrant_meter (s : State) (b : BayIx) (w : Nat) : (s.setGrant b w).meter = s.meter := rfl
@[simp] theorem setGrant_allot (s : State) (b : BayIx) (w : Nat) :
    (s.setGrant b w).allot = { s.allot with grants := s.allot.grants.set b w } := rfl
@[simp] theorem setGrant_hold (s : State) (b : BayIx) (w : Nat) : (s.setGrant b w).hold = s.hold := rfl
@[simp] theorem setGrant_grid (s : State) (b : BayIx) (w : Nat) : (s.setGrant b w).grid = s.grid := rfl
@[simp] theorem setGrant_store (s : State) (b : BayIx) (w : Nat) : (s.setGrant b w).store = s.store := rfl
@[simp] theorem setGrant_price (s : State) (b : BayIx) (w : Nat) : (s.setGrant b w).price = s.price := rfl
@[simp] theorem setGrant_nv (s : State) (b : BayIx) (w : Nat) : (s.setGrant b w).nv = s.nv := rfl
@[simp] theorem setGrant_rcpt (s : State) (b : BayIx) (w : Nat) : (s.setGrant b w).rcpt = s.rcpt := rfl
@[simp] theorem setGrant_xchg (s : State) (b : BayIx) (w : Nat) : (s.setGrant b w).xchg = s.xchg := rfl
@[simp] theorem setGrant_site (s : State) (b : BayIx) (w : Nat) : (s.setGrant b w).site = s.site := rfl
@[simp] theorem setGrant_elapsed (s : State) (b : BayIx) (w : Nat) : (s.setGrant b w).elapsed = s.elapsed := rfl
@[simp] theorem setGrant_inReset (s : State) (b : BayIx) (w : Nat) : (s.setGrant b w).inReset = s.inReset := rfl
@[simp] theorem setGrant_restartDue (s : State) (b : BayIx) (w : Nat) :
    (s.setGrant b w).restartDue = s.restartDue := rfl
@[simp] theorem setGrant_roundsAsked (s : State) (b : BayIx) (w : Nat) :
    (s.setGrant b w).roundsAsked = s.roundsAsked := rfl
@[simp] theorem setGrant_pageAsks (s : State) (b : BayIx) (w : Nat) : (s.setGrant b w).pageAsks = s.pageAsks := rfl
@[simp] theorem setGrant_spiData (s : State) (b : BayIx) (w : Nat) : (s.setGrant b w).spiData = s.spiData := rfl
@[simp] theorem setGrant_pending (s : State) (b : BayIx) (w : Nat) : (s.setGrant b w).pending = s.pending := rfl

@[simp] theorem setString_link (s : State) (i : StringIx) (r : StringRec) : (s.setString i r).link = s.link := rfl
@[simp] theorem setString_sess (s : State) (i : StringIx) (r : StringRec) : (s.setString i r).sess = s.sess := rfl
@[simp] theorem setString_meter (s : State) (i : StringIx) (r : StringRec) : (s.setString i r).meter = s.meter := rfl
@[simp] theorem setString_allot (s : State) (i : StringIx) (r : StringRec) : (s.setString i r).allot = s.allot := rfl
@[simp] theorem setString_hold (s : State) (i : StringIx) (r : StringRec) : (s.setString i r).hold = s.hold := rfl
@[simp] theorem setString_grid (s : State) (i : StringIx) (r : StringRec) : (s.setString i r).grid = s.grid := rfl
@[simp] theorem setString_store (s : State) (i : StringIx) (r : StringRec) :
    (s.setString i r).store = { s.store with strings := s.store.strings.set i r } := rfl
@[simp] theorem setString_price (s : State) (i : StringIx) (r : StringRec) : (s.setString i r).price = s.price := rfl
@[simp] theorem setString_nv (s : State) (i : StringIx) (r : StringRec) : (s.setString i r).nv = s.nv := rfl
@[simp] theorem setString_rcpt (s : State) (i : StringIx) (r : StringRec) : (s.setString i r).rcpt = s.rcpt := rfl
@[simp] theorem setString_xchg (s : State) (i : StringIx) (r : StringRec) : (s.setString i r).xchg = s.xchg := rfl
@[simp] theorem setString_site (s : State) (i : StringIx) (r : StringRec) : (s.setString i r).site = s.site := rfl
@[simp] theorem setString_elapsed (s : State) (i : StringIx) (r : StringRec) :
    (s.setString i r).elapsed = s.elapsed := rfl
@[simp] theorem setString_inReset (s : State) (i : StringIx) (r : StringRec) :
    (s.setString i r).inReset = s.inReset := rfl
@[simp] theorem setString_restartDue (s : State) (i : StringIx) (r : StringRec) :
    (s.setString i r).restartDue = s.restartDue := rfl
@[simp] theorem setString_roundsAsked (s : State) (i : StringIx) (r : StringRec) :
    (s.setString i r).roundsAsked = s.roundsAsked := rfl
@[simp] theorem setString_pageAsks (s : State) (i : StringIx) (r : StringRec) :
    (s.setString i r).pageAsks = s.pageAsks := rfl
@[simp] theorem setString_spiData (s : State) (i : StringIx) (r : StringRec) :
    (s.setString i r).spiData = s.spiData := rfl
@[simp] theorem setString_pending (s : State) (i : StringIx) (r : StringRec) :
    (s.setString i r).pending = s.pending := rfl

@[simp] theorem askPage_link (s : State) : s.askPage.link = s.link := rfl
@[simp] theorem askPage_sess (s : State) : s.askPage.sess = s.sess := rfl
@[simp] theorem askPage_meter (s : State) : s.askPage.meter = s.meter := rfl
@[simp] theorem askPage_allot (s : State) : s.askPage.allot = s.allot := rfl
@[simp] theorem askPage_hold (s : State) : s.askPage.hold = s.hold := rfl
@[simp] theorem askPage_grid (s : State) : s.askPage.grid = s.grid := rfl
@[simp] theorem askPage_store (s : State) : s.askPage.store = s.store := rfl
@[simp] theorem askPage_price (s : State) : s.askPage.price = s.price := rfl
@[simp] theorem askPage_nv (s : State) : s.askPage.nv = s.nv := rfl
@[simp] theorem askPage_rcpt (s : State) : s.askPage.rcpt = s.rcpt := rfl
@[simp] theorem askPage_xchg (s : State) : s.askPage.xchg = s.xchg := rfl
@[simp] theorem askPage_site (s : State) : s.askPage.site = s.site := rfl
@[simp] theorem askPage_elapsed (s : State) : s.askPage.elapsed = s.elapsed := rfl
@[simp] theorem askPage_inReset (s : State) : s.askPage.inReset = s.inReset := rfl
@[simp] theorem askPage_restartDue (s : State) : s.askPage.restartDue = s.restartDue := rfl
@[simp] theorem askPage_roundsAsked (s : State) : s.askPage.roundsAsked = s.roundsAsked := rfl
@[simp] theorem askPage_pageAsks (s : State) : s.askPage.pageAsks = s.pageAsks + 1 := rfl
@[simp] theorem askPage_spiData (s : State) : s.askPage.spiData = s.spiData := rfl
@[simp] theorem askPage_pending (s : State) : s.askPage.pending = s.pending := rfl

@[simp] theorem setPlace_link (s : State) (p : Fin 8) (h : Option Held) : (s.setPlace p h).link = s.link := rfl
@[simp] theorem setPlace_sess (s : State) (p : Fin 8) (h : Option Held) : (s.setPlace p h).sess = s.sess := rfl
@[simp] theorem setPlace_meter (s : State) (p : Fin 8) (h : Option Held) : (s.setPlace p h).meter = s.meter := rfl
@[simp] theorem setPlace_allot (s : State) (p : Fin 8) (h : Option Held) : (s.setPlace p h).allot = s.allot := rfl
@[simp] theorem setPlace_hold (s : State) (p : Fin 8) (h : Option Held) : (s.setPlace p h).hold = s.hold := rfl
@[simp] theorem setPlace_grid (s : State) (p : Fin 8) (h : Option Held) : (s.setPlace p h).grid = s.grid := rfl
@[simp] theorem setPlace_store (s : State) (p : Fin 8) (h : Option Held) : (s.setPlace p h).store = s.store := rfl
@[simp] theorem setPlace_price (s : State) (p : Fin 8) (h : Option Held) : (s.setPlace p h).price = s.price := rfl
@[simp] theorem setPlace_nv (s : State) (p : Fin 8) (h : Option Held) : (s.setPlace p h).nv = s.nv := rfl
@[simp] theorem setPlace_rcpt (s : State) (p : Fin 8) (h : Option Held) : (s.setPlace p h).rcpt = s.rcpt := rfl
@[simp] theorem setPlace_xchg (s : State) (p : Fin 8) (h : Option Held) :
    (s.setPlace p h).xchg = { s.xchg with holder := s.xchg.holder.set p h } := rfl
@[simp] theorem setPlace_site (s : State) (p : Fin 8) (h : Option Held) : (s.setPlace p h).site = s.site := rfl
@[simp] theorem setPlace_elapsed (s : State) (p : Fin 8) (h : Option Held) :
    (s.setPlace p h).elapsed = s.elapsed := rfl
@[simp] theorem setPlace_inReset (s : State) (p : Fin 8) (h : Option Held) :
    (s.setPlace p h).inReset = s.inReset := rfl
@[simp] theorem setPlace_restartDue (s : State) (p : Fin 8) (h : Option Held) :
    (s.setPlace p h).restartDue = s.restartDue := rfl
@[simp] theorem setPlace_roundsAsked (s : State) (p : Fin 8) (h : Option Held) :
    (s.setPlace p h).roundsAsked = s.roundsAsked := rfl
@[simp] theorem setPlace_pageAsks (s : State) (p : Fin 8) (h : Option Held) :
    (s.setPlace p h).pageAsks = s.pageAsks := rfl
@[simp] theorem setPlace_spiData (s : State) (p : Fin 8) (h : Option Held) :
    (s.setPlace p h).spiData = s.spiData := rfl
@[simp] theorem setPlace_pending (s : State) (p : Fin 8) (h : Option Held) :
    (s.setPlace p h).pending = s.pending := rfl

@[simp] theorem mapOpen_link (s : State) (b : BayIx) (f : Session → Session) : (s.mapOpen b f).link = s.link := rfl
@[simp] theorem mapOpen_sess (s : State) (b : BayIx) (f : Session → Session) :
    (s.mapOpen b f).sess = { s.sess with table := s.sess.table.map (fun x => if x.isOpen && decide (x.bay = b) then f x else x) } := rfl
@[simp] theorem mapOpen_meter (s : State) (b : BayIx) (f : Session → Session) : (s.mapOpen b f).meter = s.meter := rfl
@[simp] theorem mapOpen_allot (s : State) (b : BayIx) (f : Session → Session) : (s.mapOpen b f).allot = s.allot := rfl
@[simp] theorem mapOpen_hold (s : State) (b : BayIx) (f : Session → Session) : (s.mapOpen b f).hold = s.hold := rfl
@[simp] theorem mapOpen_grid (s : State) (b : BayIx) (f : Session → Session) : (s.mapOpen b f).grid = s.grid := rfl
@[simp] theorem mapOpen_store (s : State) (b : BayIx) (f : Session → Session) : (s.mapOpen b f).store = s.store := rfl
@[simp] theorem mapOpen_price (s : State) (b : BayIx) (f : Session → Session) : (s.mapOpen b f).price = s.price := rfl
@[simp] theorem mapOpen_nv (s : State) (b : BayIx) (f : Session → Session) : (s.mapOpen b f).nv = s.nv := rfl
@[simp] theorem mapOpen_rcpt (s : State) (b : BayIx) (f : Session → Session) : (s.mapOpen b f).rcpt = s.rcpt := rfl
@[simp] theorem mapOpen_xchg (s : State) (b : BayIx) (f : Session → Session) : (s.mapOpen b f).xchg = s.xchg := rfl
@[simp] theorem mapOpen_site (s : State) (b : BayIx) (f : Session → Session) : (s.mapOpen b f).site = s.site := rfl
@[simp] theorem mapOpen_elapsed (s : State) (b : BayIx) (f : Session → Session) :
    (s.mapOpen b f).elapsed = s.elapsed := rfl
@[simp] theorem mapOpen_inReset (s : State) (b : BayIx) (f : Session → Session) :
    (s.mapOpen b f).inReset = s.inReset := rfl
@[simp] theorem mapOpen_restartDue (s : State) (b : BayIx) (f : Session → Session) :
    (s.mapOpen b f).restartDue = s.restartDue := rfl
@[simp] theorem mapOpen_roundsAsked (s : State) (b : BayIx) (f : Session → Session) :
    (s.mapOpen b f).roundsAsked = s.roundsAsked := rfl
@[simp] theorem mapOpen_pageAsks (s : State) (b : BayIx) (f : Session → Session) :
    (s.mapOpen b f).pageAsks = s.pageAsks := rfl
@[simp] theorem mapOpen_spiData (s : State) (b : BayIx) (f : Session → Session) :
    (s.mapOpen b f).spiData = s.spiData := rfl
@[simp] theorem mapOpen_pending (s : State) (b : BayIx) (f : Session → Session) :
    (s.mapOpen b f).pending = s.pending := rfl

@[simp] theorem askWrite_link (s : State) (j : StoreJob) : (s.askWrite j).link = s.link := rfl
@[simp] theorem askWrite_sess (s : State) (j : StoreJob) : (s.askWrite j).sess = s.sess := rfl
@[simp] theorem askWrite_meter (s : State) (j : StoreJob) : (s.askWrite j).meter = s.meter := rfl
@[simp] theorem askWrite_allot (s : State) (j : StoreJob) : (s.askWrite j).allot = s.allot := rfl
@[simp] theorem askWrite_hold (s : State) (j : StoreJob) : (s.askWrite j).hold = s.hold := rfl
@[simp] theorem askWrite_grid (s : State) (j : StoreJob) : (s.askWrite j).grid = s.grid := rfl
@[simp] theorem askWrite_store (s : State) (j : StoreJob) : (s.askWrite j).store = s.store := rfl
@[simp] theorem askWrite_price (s : State) (j : StoreJob) :
    (s.askWrite j).price = { s.price with queue := s.price.queue ++ [j] } := rfl
@[simp] theorem askWrite_nv (s : State) (j : StoreJob) : (s.askWrite j).nv = s.nv := rfl
@[simp] theorem askWrite_rcpt (s : State) (j : StoreJob) : (s.askWrite j).rcpt = s.rcpt := rfl
@[simp] theorem askWrite_xchg (s : State) (j : StoreJob) : (s.askWrite j).xchg = s.xchg := rfl
@[simp] theorem askWrite_site (s : State) (j : StoreJob) : (s.askWrite j).site = s.site := rfl
@[simp] theorem askWrite_elapsed (s : State) (j : StoreJob) : (s.askWrite j).elapsed = s.elapsed := rfl
@[simp] theorem askWrite_inReset (s : State) (j : StoreJob) : (s.askWrite j).inReset = s.inReset := rfl
@[simp] theorem askWrite_restartDue (s : State) (j : StoreJob) : (s.askWrite j).restartDue = s.restartDue := rfl
@[simp] theorem askWrite_roundsAsked (s : State) (j : StoreJob) : (s.askWrite j).roundsAsked = s.roundsAsked := rfl
@[simp] theorem askWrite_pageAsks (s : State) (j : StoreJob) : (s.askWrite j).pageAsks = s.pageAsks := rfl
@[simp] theorem askWrite_spiData (s : State) (j : StoreJob) : (s.askWrite j).spiData = s.spiData := rfl
@[simp] theorem askWrite_pending (s : State) (j : StoreJob) : (s.askWrite j).pending = s.pending := rfl

@[simp] theorem startWrite_link (s : State) (j : StoreJob) (item : TariffItem) :
    (s.startWrite j item).link = s.link := rfl
@[simp] theorem startWrite_sess (s : State) (j : StoreJob) (item : TariffItem) :
    (s.startWrite j item).sess = s.sess := rfl
@[simp] theorem startWrite_meter (s : State) (j : StoreJob) (item : TariffItem) :
    (s.startWrite j item).meter = s.meter := rfl
@[simp] theorem startWrite_allot (s : State) (j : StoreJob) (item : TariffItem) :
    (s.startWrite j item).allot = s.allot := rfl
@[simp] theorem startWrite_hold (s : State) (j : StoreJob) (item : TariffItem) :
    (s.startWrite j item).hold = s.hold := rfl
@[simp] theorem startWrite_grid (s : State) (j : StoreJob) (item : TariffItem) :
    (s.startWrite j item).grid = s.grid := rfl
@[simp] theorem startWrite_store (s : State) (j : StoreJob) (item : TariffItem) :
    (s.startWrite j item).store = s.store := rfl
@[simp] theorem startWrite_price (s : State) (j : StoreJob) (item : TariffItem) :
    (s.startWrite j item).price = { s.price with active := some ⟨j, item⟩ } := rfl
@[simp] theorem startWrite_nv (s : State) (j : StoreJob) (item : TariffItem) : (s.startWrite j item).nv = s.nv := rfl
@[simp] theorem startWrite_rcpt (s : State) (j : StoreJob) (item : TariffItem) :
    (s.startWrite j item).rcpt = s.rcpt := rfl
@[simp] theorem startWrite_xchg (s : State) (j : StoreJob) (item : TariffItem) :
    (s.startWrite j item).xchg = s.xchg := rfl
@[simp] theorem startWrite_site (s : State) (j : StoreJob) (item : TariffItem) :
    (s.startWrite j item).site = s.site := rfl
@[simp] theorem startWrite_elapsed (s : State) (j : StoreJob) (item : TariffItem) :
    (s.startWrite j item).elapsed = s.elapsed := rfl
@[simp] theorem startWrite_inReset (s : State) (j : StoreJob) (item : TariffItem) :
    (s.startWrite j item).inReset = s.inReset := rfl
@[simp] theorem startWrite_restartDue (s : State) (j : StoreJob) (item : TariffItem) :
    (s.startWrite j item).restartDue = s.restartDue := rfl
@[simp] theorem startWrite_roundsAsked (s : State) (j : StoreJob) (item : TariffItem) :
    (s.startWrite j item).roundsAsked = s.roundsAsked := rfl
@[simp] theorem startWrite_pageAsks (s : State) (j : StoreJob) (item : TariffItem) :
    (s.startWrite j item).pageAsks = s.pageAsks := rfl
@[simp] theorem startWrite_spiData (s : State) (j : StoreJob) (item : TariffItem) :
    (s.startWrite j item).spiData = s.spiData := rfl
@[simp] theorem startWrite_pending (s : State) (j : StoreJob) (item : TariffItem) :
    (s.startWrite j item).pending = s.pending := rfl

@[simp] theorem markTaken_link (s : State) (i : Fin 48) : (s.markTaken i).link = s.link := rfl
@[simp] theorem markTaken_sess (s : State) (i : Fin 48) : (s.markTaken i).sess = s.sess := rfl
@[simp] theorem markTaken_meter (s : State) (i : Fin 48) : (s.markTaken i).meter = s.meter := rfl
@[simp] theorem markTaken_allot (s : State) (i : Fin 48) : (s.markTaken i).allot = s.allot := rfl
@[simp] theorem markTaken_hold (s : State) (i : Fin 48) : (s.markTaken i).hold = s.hold := rfl
@[simp] theorem markTaken_grid (s : State) (i : Fin 48) : (s.markTaken i).grid = s.grid := rfl
@[simp] theorem markTaken_store (s : State) (i : Fin 48) : (s.markTaken i).store = s.store := rfl
@[simp] theorem markTaken_price (s : State) (i : Fin 48) : (s.markTaken i).price = s.price := rfl
@[simp] theorem markTaken_nv (s : State) (i : Fin 48) : (s.markTaken i).nv = s.nv := rfl
@[simp] theorem markTaken_rcpt (s : State) (i : Fin 48) : (s.markTaken i).rcpt = s.rcpt := rfl
@[simp] theorem markTaken_xchg (s : State) (i : Fin 48) :
    (s.markTaken i).xchg = { s.xchg with lastSlot := i, mem := s.xchg.mem.storeWords (slotBase i) [slotTaken] } := rfl
@[simp] theorem markTaken_site (s : State) (i : Fin 48) : (s.markTaken i).site = s.site := rfl
@[simp] theorem markTaken_elapsed (s : State) (i : Fin 48) : (s.markTaken i).elapsed = s.elapsed := rfl
@[simp] theorem markTaken_inReset (s : State) (i : Fin 48) : (s.markTaken i).inReset = s.inReset := rfl
@[simp] theorem markTaken_restartDue (s : State) (i : Fin 48) : (s.markTaken i).restartDue = s.restartDue := rfl
@[simp] theorem markTaken_roundsAsked (s : State) (i : Fin 48) : (s.markTaken i).roundsAsked = s.roundsAsked := rfl
@[simp] theorem markTaken_pageAsks (s : State) (i : Fin 48) : (s.markTaken i).pageAsks = s.pageAsks := rfl
@[simp] theorem markTaken_spiData (s : State) (i : Fin 48) : (s.markTaken i).spiData = s.spiData := rfl
@[simp] theorem markTaken_pending (s : State) (i : Fin 48) : (s.markTaken i).pending = s.pending := rfl

@[simp] theorem fillSlot_link (s : State) (i : Fin 48) (k : Kind) (t : Word) (body : List Word) :
    (s.fillSlot i k t body).link = s.link := rfl
@[simp] theorem fillSlot_sess (s : State) (i : Fin 48) (k : Kind) (t : Word) (body : List Word) :
    (s.fillSlot i k t body).sess = s.sess := rfl
@[simp] theorem fillSlot_meter (s : State) (i : Fin 48) (k : Kind) (t : Word) (body : List Word) :
    (s.fillSlot i k t body).meter = s.meter := rfl
@[simp] theorem fillSlot_allot (s : State) (i : Fin 48) (k : Kind) (t : Word) (body : List Word) :
    (s.fillSlot i k t body).allot = s.allot := rfl
@[simp] theorem fillSlot_hold (s : State) (i : Fin 48) (k : Kind) (t : Word) (body : List Word) :
    (s.fillSlot i k t body).hold = s.hold := rfl
@[simp] theorem fillSlot_grid (s : State) (i : Fin 48) (k : Kind) (t : Word) (body : List Word) :
    (s.fillSlot i k t body).grid = s.grid := rfl
@[simp] theorem fillSlot_store (s : State) (i : Fin 48) (k : Kind) (t : Word) (body : List Word) :
    (s.fillSlot i k t body).store = s.store := rfl
@[simp] theorem fillSlot_price (s : State) (i : Fin 48) (k : Kind) (t : Word) (body : List Word) :
    (s.fillSlot i k t body).price = s.price := rfl
@[simp] theorem fillSlot_nv (s : State) (i : Fin 48) (k : Kind) (t : Word) (body : List Word) :
    (s.fillSlot i k t body).nv = s.nv := rfl
@[simp] theorem fillSlot_rcpt (s : State) (i : Fin 48) (k : Kind) (t : Word) (body : List Word) :
    (s.fillSlot i k t body).rcpt = s.rcpt := rfl
@[simp] theorem fillSlot_xchg (s : State) (i : Fin 48) (k : Kind) (t : Word) (body : List Word) :
    (s.fillSlot i k t body).xchg = { s.xchg with mem := s.xchg.mem.storeWords (slotBase i) (requestWords k t body) } := rfl
@[simp] theorem fillSlot_site (s : State) (i : Fin 48) (k : Kind) (t : Word) (body : List Word) :
    (s.fillSlot i k t body).site = s.site := rfl
@[simp] theorem fillSlot_elapsed (s : State) (i : Fin 48) (k : Kind) (t : Word) (body : List Word) :
    (s.fillSlot i k t body).elapsed = s.elapsed := rfl
@[simp] theorem fillSlot_inReset (s : State) (i : Fin 48) (k : Kind) (t : Word) (body : List Word) :
    (s.fillSlot i k t body).inReset = s.inReset := rfl
@[simp] theorem fillSlot_restartDue (s : State) (i : Fin 48) (k : Kind) (t : Word) (body : List Word) :
    (s.fillSlot i k t body).restartDue = s.restartDue := rfl
@[simp] theorem fillSlot_roundsAsked (s : State) (i : Fin 48) (k : Kind) (t : Word) (body : List Word) :
    (s.fillSlot i k t body).roundsAsked = s.roundsAsked := rfl
@[simp] theorem fillSlot_pageAsks (s : State) (i : Fin 48) (k : Kind) (t : Word) (body : List Word) :
    (s.fillSlot i k t body).pageAsks = s.pageAsks := rfl
@[simp] theorem fillSlot_spiData (s : State) (i : Fin 48) (k : Kind) (t : Word) (body : List Word) :
    (s.fillSlot i k t body).spiData = s.spiData := rfl
@[simp] theorem fillSlot_pending (s : State) (i : Fin 48) (k : Kind) (t : Word) (body : List Word) :
    (s.fillSlot i k t body).pending = s.pending := rfl

@[simp] theorem setNumbers_session_link (s : State) (n : NumberBlock) : (s.setNumbers .session n).link = s.link := rfl
@[simp] theorem setNumbers_session_sess (s : State) (n : NumberBlock) : (s.setNumbers .session n).sess = s.sess := rfl
@[simp] theorem setNumbers_session_meter (s : State) (n : NumberBlock) : (s.setNumbers .session n).meter = s.meter := rfl
@[simp] theorem setNumbers_session_allot (s : State) (n : NumberBlock) : (s.setNumbers .session n).allot = s.allot := rfl
@[simp] theorem setNumbers_session_hold (s : State) (n : NumberBlock) : (s.setNumbers .session n).hold = s.hold := rfl
@[simp] theorem setNumbers_session_grid (s : State) (n : NumberBlock) : (s.setNumbers .session n).grid = s.grid := rfl
@[simp] theorem setNumbers_session_store (s : State) (n : NumberBlock) : (s.setNumbers .session n).store = s.store := rfl
@[simp] theorem setNumbers_session_price (s : State) (n : NumberBlock) : (s.setNumbers .session n).price = { s.price with sessions := n } := rfl
@[simp] theorem setNumbers_session_nv (s : State) (n : NumberBlock) : (s.setNumbers .session n).nv = s.nv := rfl
@[simp] theorem setNumbers_session_rcpt (s : State) (n : NumberBlock) : (s.setNumbers .session n).rcpt = s.rcpt := rfl
@[simp] theorem setNumbers_session_xchg (s : State) (n : NumberBlock) : (s.setNumbers .session n).xchg = s.xchg := rfl
@[simp] theorem setNumbers_session_site (s : State) (n : NumberBlock) : (s.setNumbers .session n).site = s.site := rfl
@[simp] theorem setNumbers_session_elapsed (s : State) (n : NumberBlock) : (s.setNumbers .session n).elapsed = s.elapsed := rfl
@[simp] theorem setNumbers_session_inReset (s : State) (n : NumberBlock) : (s.setNumbers .session n).inReset = s.inReset := rfl
@[simp] theorem setNumbers_session_restartDue (s : State) (n : NumberBlock) : (s.setNumbers .session n).restartDue = s.restartDue := rfl
@[simp] theorem setNumbers_session_roundsAsked (s : State) (n : NumberBlock) : (s.setNumbers .session n).roundsAsked = s.roundsAsked := rfl
@[simp] theorem setNumbers_session_pageAsks (s : State) (n : NumberBlock) : (s.setNumbers .session n).pageAsks = s.pageAsks := rfl
@[simp] theorem setNumbers_session_spiData (s : State) (n : NumberBlock) : (s.setNumbers .session n).spiData = s.spiData := rfl
@[simp] theorem setNumbers_session_pending (s : State) (n : NumberBlock) : (s.setNumbers .session n).pending = s.pending := rfl

@[simp] theorem setNumbers_receipt_link (s : State) (n : NumberBlock) : (s.setNumbers .receipt n).link = s.link := rfl
@[simp] theorem setNumbers_receipt_sess (s : State) (n : NumberBlock) : (s.setNumbers .receipt n).sess = s.sess := rfl
@[simp] theorem setNumbers_receipt_meter (s : State) (n : NumberBlock) : (s.setNumbers .receipt n).meter = s.meter := rfl
@[simp] theorem setNumbers_receipt_allot (s : State) (n : NumberBlock) : (s.setNumbers .receipt n).allot = s.allot := rfl
@[simp] theorem setNumbers_receipt_hold (s : State) (n : NumberBlock) : (s.setNumbers .receipt n).hold = s.hold := rfl
@[simp] theorem setNumbers_receipt_grid (s : State) (n : NumberBlock) : (s.setNumbers .receipt n).grid = s.grid := rfl
@[simp] theorem setNumbers_receipt_store (s : State) (n : NumberBlock) : (s.setNumbers .receipt n).store = s.store := rfl
@[simp] theorem setNumbers_receipt_price (s : State) (n : NumberBlock) : (s.setNumbers .receipt n).price = { s.price with receipts := n } := rfl
@[simp] theorem setNumbers_receipt_nv (s : State) (n : NumberBlock) : (s.setNumbers .receipt n).nv = s.nv := rfl
@[simp] theorem setNumbers_receipt_rcpt (s : State) (n : NumberBlock) : (s.setNumbers .receipt n).rcpt = s.rcpt := rfl
@[simp] theorem setNumbers_receipt_xchg (s : State) (n : NumberBlock) : (s.setNumbers .receipt n).xchg = s.xchg := rfl
@[simp] theorem setNumbers_receipt_site (s : State) (n : NumberBlock) : (s.setNumbers .receipt n).site = s.site := rfl
@[simp] theorem setNumbers_receipt_elapsed (s : State) (n : NumberBlock) : (s.setNumbers .receipt n).elapsed = s.elapsed := rfl
@[simp] theorem setNumbers_receipt_inReset (s : State) (n : NumberBlock) : (s.setNumbers .receipt n).inReset = s.inReset := rfl
@[simp] theorem setNumbers_receipt_restartDue (s : State) (n : NumberBlock) : (s.setNumbers .receipt n).restartDue = s.restartDue := rfl
@[simp] theorem setNumbers_receipt_roundsAsked (s : State) (n : NumberBlock) : (s.setNumbers .receipt n).roundsAsked = s.roundsAsked := rfl
@[simp] theorem setNumbers_receipt_pageAsks (s : State) (n : NumberBlock) : (s.setNumbers .receipt n).pageAsks = s.pageAsks := rfl
@[simp] theorem setNumbers_receipt_spiData (s : State) (n : NumberBlock) : (s.setNumbers .receipt n).spiData = s.spiData := rfl
@[simp] theorem setNumbers_receipt_pending (s : State) (n : NumberBlock) : (s.setNumbers .receipt n).pending = s.pending := rfl

@[simp] theorem askRound_link (s : State) : s.askRound.link = s.link := by unfold State.askRound; split <;> rfl
@[simp] theorem askRound_sess (s : State) : s.askRound.sess = s.sess := by unfold State.askRound; split <;> rfl
@[simp] theorem askRound_meter (s : State) : s.askRound.meter = s.meter := by unfold State.askRound; split <;> rfl
@[simp] theorem askRound_allot (s : State) : s.askRound.allot = s.allot := by unfold State.askRound; split <;> rfl
@[simp] theorem askRound_hold (s : State) : s.askRound.hold = s.hold := by unfold State.askRound; split <;> rfl
@[simp] theorem askRound_grid (s : State) : s.askRound.grid = s.grid := by unfold State.askRound; split <;> rfl
@[simp] theorem askRound_store (s : State) : s.askRound.store = s.store := by unfold State.askRound; split <;> rfl
@[simp] theorem askRound_price (s : State) : s.askRound.price = s.price := by unfold State.askRound; split <;> rfl
@[simp] theorem askRound_nv (s : State) : s.askRound.nv = s.nv := by unfold State.askRound; split <;> rfl
@[simp] theorem askRound_rcpt (s : State) : s.askRound.rcpt = s.rcpt := by unfold State.askRound; split <;> rfl
@[simp] theorem askRound_xchg (s : State) : s.askRound.xchg = s.xchg := by unfold State.askRound; split <;> rfl
@[simp] theorem askRound_site (s : State) : s.askRound.site = s.site := by unfold State.askRound; split <;> rfl
@[simp] theorem askRound_elapsed (s : State) : s.askRound.elapsed = s.elapsed := by unfold State.askRound; split <;> rfl
@[simp] theorem askRound_inReset (s : State) : s.askRound.inReset = s.inReset := by unfold State.askRound; split <;> rfl
@[simp] theorem askRound_restartDue (s : State) : s.askRound.restartDue = s.restartDue := by unfold State.askRound; split <;> rfl
@[simp] theorem askRound_pageAsks (s : State) : s.askRound.pageAsks = s.pageAsks := by unfold State.askRound; split <;> rfl
@[simp] theorem askRound_spiData (s : State) : s.askRound.spiData = s.spiData := by unfold State.askRound; split <;> rfl
@[simp] theorem askRound_pending (s : State) : s.askRound.pending = s.pending := by unfold State.askRound; split <;> rfl

theorem askRound_running {s : State} (h : s.site.run = .run) : s.askRound.roundsAsked = s.roundsAsked + 1 := by
  unfold State.askRound; rw [if_pos h]

theorem askRound_halted {s : State} (h : s.site.run = .halted) : s.askRound = s := by
  unfold State.askRound; rw [if_neg (by rw [h]; decide)]

/-! ## Reading back what was set -/

theorem Target.ix_inj {t u : Target} (h : t.ix = u.ix) : t = u := by
  cases t <;> cases u <;> simp [Target.ix, Fin.ext_iff] at h ⊢ <;> omega

@[simp] theorem recOf_setRec (s : State) (t : Target) (r : ModuleRec) : (s.setRec t r).recOf t = r := by
  simp [State.recOf]

theorem recOf_setRec_ne (s : State) {t u : Target} (r : ModuleRec) (h : t ≠ u) : (s.setRec t r).recOf u = s.recOf u := by
  have hv : t.ix.val ≠ u.ix.val := fun e => h (Target.ix_inj (Fin.ext e))
  simp [State.recOf, hv]

@[simp] theorem bayOf_setBay (s : State) (b : BayIx) (r : BayRec) : (s.setBay b r).bayOf b = r := by
  simp [State.bayOf]

theorem bayOf_setBay_ne (s : State) {b c : BayIx} (r : BayRec) (h : b ≠ c) : (s.setBay b r).bayOf c = s.bayOf c := by
  have hv : b.val ≠ c.val := fun e => h (Fin.ext e)
  simp [State.bayOf, hv]

@[simp] theorem grantOf_setGrant (s : State) (b : BayIx) (w : Nat) : (s.setGrant b w).grantOf b = w := by
  simp [State.grantOf]

theorem grantOf_setGrant_ne (s : State) {b c : BayIx} (w : Nat) (h : b ≠ c) :
    (s.setGrant b w).grantOf c = s.grantOf c := by
  have hv : b.val ≠ c.val := fun e => h (Fin.ext e)
  simp [State.grantOf, hv]

@[simp] theorem stringOf_setString (s : State) (i : StringIx) (r : StringRec) : (s.setString i r).stringOf i = r := by
  simp [State.stringOf]

theorem stringOf_setString_ne (s : State) {i j : StringIx} (r : StringRec) (h : i ≠ j) :
    (s.setString i r).stringOf j = s.stringOf j := by
  have hv : i.val ≠ j.val := fun e => h (Fin.ext e)
  simp [State.stringOf, hv]

@[simp] theorem holder_setPlace (s : State) (p : Fin 8) (h : Option Held) : (s.setPlace p h).xchg.holder[p] = h := by
  simp

theorem holder_setPlace_ne (s : State) {p q : Fin 8} (h : Option Held) (n : p ≠ q) :
    (s.setPlace p h).xchg.holder[q] = s.xchg.holder[q] := by
  have hv : p.val ≠ q.val := fun e => n (Fin.ext e)
  simp [hv]

@[simp] theorem numbers_setNumbers (s : State) (k : NumberKind) (n : NumberBlock) : (s.setNumbers k n).numbers k = n := by
  cases k <;> rfl

end Sys2Proof.Machine
end

