-- ==== Sys2Proof/Laws/Calm.lean ====
section
/-!
SUPPORT. What rounds, grants, setpoints, lane entries and bay moves leave as it is: the relation Calm, its algebra, and
one lemma calm_f for each operation f that a round is made of.
-/
namespace Sys2Proof.Machine

set_option Elab.async false

/-- A bay record without what a move of the Allotment Unit may change. -/
def BayRec.still (r : BayRec) : BayRec := { r with state := .seeking, change := 0, lowStart := none, highCount := 0 }

/-- A session record without its idle clock. -/
def Session.still (x : Session) : Session := { x with idle := ⟨0, none, none⟩ }

/-- A module record without its last issued values. -/
def ModuleRec.still (r : ModuleRec) : ModuleRec := { r with issuedGrant := 0, issuedCap := 0, issuedSetpoint := .watts 0 }

/-- The Store Unit without its allowances and the wish for a top-up. -/
def StoreUnit.still (u : StoreUnit) : StoreUnit := { u with discharge := 0, charge := 0, topUp := false }

/-- `t` is `s` but for grants, setpoint, ceilings, the wait list, lane entries, issued values, allowances, moves of bays
between states, stopped idle clocks, attention raised and page rewrites asked. -/
structure Calm (s t : State) : Prop where
  meter : t.meter = s.meter
  blindTimer : t.allot.blindTimer = s.allot.blindTimer
  blindBudget : t.allot.blindBudget = s.allot.blindBudget
  hold : t.hold = s.hold
  grid : t.grid = s.grid
  rcpt : t.rcpt = s.rcpt
  price : t.price = s.price
  nv : t.nv = s.nv
  site : t.site = s.site
  elapsed : t.elapsed = s.elapsed
  inReset : t.inReset = s.inReset
  restartDue : t.restartDue = s.restartDue
  roundsAsked : t.roundsAsked = s.roundsAsked
  pending : t.pending = s.pending
  spiData : t.spiData = s.spiData
  vouchers : t.sess.vouchers = s.sess.vouchers
  voids : t.sess.voids = s.sess.voids
  xchg : t.xchg = { s.xchg with attn := t.xchg.attn }
  attn : t.xchg.attn = s.xchg.attn ||| t.xchg.attn
  bus : t.link.bus = s.link.bus
  nextTag : t.link.nextTag = s.link.nextTag
  cycleStart : t.link.cycleStart = s.link.cycleStart
  frameErrors : t.link.frameErrors = s.link.frameErrors
  missedPolls : t.link.missedPolls = s.link.missedPolls
  replacedModules : t.link.replacedModules = s.link.replacedModules
  store : t.store.still = s.store.still
  record : ∀ target, (t.recOf target).still = (s.recOf target).still
  bay : ∀ b, (t.bayOf b).still = (s.bayOf b).still
  table : t.sess.table.map Session.still = s.sess.table.map Session.still

theorem Calm.rfl' (s : State) : Calm s s := by
  constructor
  case attn => simp
  all_goals first | rfl | (intro _; rfl)

theorem or_absorb {a b c : Word} (h : b = a ||| b) (k : c = b ||| c) : c = a ||| c := by
  rw [k, h, BitVec.or_assoc]
  conv_rhs => rw [← BitVec.or_assoc, BitVec.or_self]

theorem Calm.trans {s t u : State} (h : Calm s t) (k : Calm t u) : Calm s u where
  meter := k.meter.trans h.meter
  blindTimer := k.blindTimer.trans h.blindTimer
  blindBudget := k.blindBudget.trans h.blindBudget
  hold := k.hold.trans h.hold
  grid := k.grid.trans h.grid
  rcpt := k.rcpt.trans h.rcpt
  price := k.price.trans h.price
  nv := k.nv.trans h.nv
  site := k.site.trans h.site
  elapsed := k.elapsed.trans h.elapsed
  inReset := k.inReset.trans h.inReset
  restartDue := k.restartDue.trans h.restartDue
  roundsAsked := k.roundsAsked.trans h.roundsAsked
  pending := k.pending.trans h.pending
  spiData := k.spiData.trans h.spiData
  vouchers := k.vouchers.trans h.vouchers
  voids := k.voids.trans h.voids
  xchg := by rw [k.xchg, h.xchg]
  attn := or_absorb h.attn k.attn
  bus := k.bus.trans h.bus
  nextTag := k.nextTag.trans h.nextTag
  cycleStart := k.cycleStart.trans h.cycleStart
  frameErrors := k.frameErrors.trans h.frameErrors
  missedPolls := k.missedPolls.trans h.missedPolls
  replacedModules := k.replacedModules.trans h.replacedModules
  store := k.store.trans h.store
  record := fun x => (k.record x).trans (h.record x)
  bay := fun b => (k.bay b).trans (h.bay b)
  table := k.table.trans h.table

/-- An update of the parts that Calm leaves free. -/
theorem calm_free {z s : State} (hz : Calm z s) (al : AllotUnit) (st : StoreUnit) (u o : List LaneEntry) (p : Nat)
    (h : st.still = s.store.still) (h1 : al.blindTimer = s.allot.blindTimer := by rfl)
    (h2 : al.blindBudget = s.allot.blindBudget := by rfl) :
    Calm z { s with allot := al, store := st, link.urgent := u, link.ordinary := o, pageAsks := p } :=
  { hz with store := h.trans hz.store, blindTimer := h1.trans hz.blindTimer, blindBudget := h2.trans hz.blindBudget }

theorem calm_askPage {z s : State} (hz : Calm z s) : Calm z s.askPage := { hz with }

theorem calm_raise {z s : State} (hz : Calm z s) (a : Attention) : Calm z (s.raise a) :=
  { hz with
    xchg := by show _ = ({ z.xchg with attn := s.xchg.attn ||| a.bit } : ExchangeUnit)
               show ({ s.xchg with attn := s.xchg.attn ||| a.bit } : ExchangeUnit) = _
               rw [hz.xchg]
    attn := or_absorb hz.attn (by show s.xchg.attn ||| a.bit = s.xchg.attn ||| (s.xchg.attn ||| a.bit)
                                  rw [← BitVec.or_assoc, BitVec.or_self]) }

theorem calm_setRec {z s : State} (hz : Calm z s) (x : Target) (r : ModuleRec) (h : r.still = (s.recOf x).still) :
    Calm z (s.setRec x r) :=
  { hz with
    record := fun y => by
      refine Eq.trans ?_ (hz.record y)
      by_cases e : y = x
      · subst e; rw [recOf_setRec]; exact h
      · rw [recOf_setRec_ne _ _ (Ne.symm e)] }

theorem calm_setBay {z s : State} (hz : Calm z s) (b : BayIx) (r : BayRec) (h : r.still = (s.bayOf b).still) :
    Calm z (s.setBay b r) :=
  { hz with
    bay := fun c => by
      refine Eq.trans ?_ (hz.bay c)
      by_cases e : c = b
      · subst e; rw [bayOf_setBay]; exact h
      · rw [bayOf_setBay_ne _ _ (Ne.symm e)] }

theorem calm_join {z s : State} (hz : Calm z s) (l : Lane) (f : Frame) (c : Bool) : Calm z (s.join l f c) := by
  unfold State.join
  split
  · exact hz
  cases l with
  | ordinary => exact { hz with }
  | urgent => dsimp only; split <;> exact { hz with }

theorem calm_queueGrant {z s : State} (hz : Calm z s) (b : BayIx) (n : Nat) : Calm z (s.queueGrant b n) := by
  unfold State.queueGrant
  split
  · exact hz
  · refine calm_join (calm_setRec hz _ _ ?_) _ _ _
    rfl

theorem calm_queueCap {z s : State} (hz : Calm z s) (i : StringIx) (n : Nat) : Calm z (s.queueCap i n) := by
  unfold State.queueCap
  split
  · exact hz
  · refine calm_join (calm_setRec hz _ _ ?_) _ _ _
    rfl

theorem calm_queueSetpoint {z s : State} (hz : Calm z s) (v : Setpoint) : Calm z (s.queueSetpoint v) := by
  unfold State.queueSetpoint
  split
  · exact hz
  · refine calm_join (calm_setRec hz _ _ ?_) _ _ _
    rfl

theorem calm_queueShow {z s : State} (hz : Calm z s) (b : BayIx) (m : Message) : Calm z (s.queueShow b m) := by
  unfold State.queueShow
  split
  · exact calm_join hz _ _ _
  · exact hz

theorem calm_queueLatch {z s : State} (hz : Calm z s) (b : BayIx) (l : Latch) : Calm z (s.queueLatch b l) :=
  calm_join hz _ _ _

theorem calm_queuePark {z s : State} (hz : Calm z s) (b : BayIx) : Calm z (s.queuePark b) := calm_join hz _ _ _

theorem calm_askPark {z s : State} (hz : Calm z s) (b : BayIx) : Calm z (s.askPark b) := by
  unfold State.askPark
  dsimp only
  split
  · exact calm_queuePark hz b
  · exact hz

theorem calm_placeHead {z s : State} (hz : Calm z s) (b : BayIx) : Calm z (s.placeHead b) := by
  unfold State.placeHead
  split
  · exact hz
  · exact { hz with }

theorem calm_headPoll {z s : State} (hz : Calm z s) (b : BayIx) : Calm z (s.headPoll b) := by
  unfold State.headPoll
  split
  · exact calm_placeHead hz b
  · exact hz

theorem calm_setBayState {z s : State} (hz : Calm z s) (b : BayIx) (st : BayState) : Calm z (s.setBayState b st) := by
  unfold State.setBayState
  dsimp only
  split
  · exact hz
  · refine calm_askPage (calm_raise (calm_setBay hz _ _ ?_) _)
    rfl

theorem calm_clearDraw {z s : State} (hz : Calm z s) (b : BayIx) : Calm z (s.clearDraw b) := calm_setBay hz _ _ rfl

theorem calm_satedEnds {z s : State} (hz : Calm z s) (b : BayIx) : Calm z (s.satedEnds b) :=
  { hz with
    table := by
      refine Eq.trans ?_ hz.table
      show (s.sess.table.map _).map Session.still = _
      rw [List.map_map]
      refine List.map_congr_left fun x _ => ?_
      dsimp only [Function.comp]
      split <;> rfl }

theorem calm_allot {z s : State} (hz : Calm z s) (al : AllotUnit)
    (h1 : al.blindTimer = s.allot.blindTimer := by rfl) (h2 : al.blindBudget = s.allot.blindBudget := by rfl) :
    Calm z { s with allot := al } :=
  { hz with blindTimer := h1.trans hz.blindTimer, blindBudget := h2.trans hz.blindBudget }

theorem calm_allotLeave {z s : State} (hz : Calm z s) (b : BayIx) : Calm z (s.allotLeave b) := by
  unfold State.allotLeave
  have k : Calm z { s.setGrant b 0 with
    allot.waitList := (s.setGrant b 0).allot.waitList.filter (fun x => decide (x ≠ b)) } := { hz with }
  dsimp only
  split
  · exact calm_queueGrant k b 0
  · exact k

theorem calm_moveToWait {z s : State} (hz : Calm z s) (b : BayIx) : Calm z (s.moveToWait b) :=
  calm_satedEnds (calm_clearDraw (calm_queueShow (calm_setBayState hz _ _) _ _) _) _

theorem calm_moveToCharging {z s : State} (hz : Calm z s) (b : BayIx) : Calm z (s.moveToCharging b) :=
  calm_clearDraw (calm_queueShow (calm_setBayState hz _ _) _ _) _

theorem calm_sendToWait {z s : State} (hz : Calm z s) (b : BayIx) : Calm z (s.sendToWait b) := by
  unfold State.sendToWait
  have k : Calm z { (s.setGrant b 0).moveToWait b with
    allot.waitList := ((s.setGrant b 0).moveToWait b).allot.waitList ++ [b] } :=
    calm_allot (calm_moveToWait (calm_allot hz _ : Calm z (s.setGrant b 0)) b) _
  dsimp only
  split
  · exact calm_queueGrant k b 0
  · exact k

theorem calm_sendAllToWait {z s : State} (hz : Calm z s) (l : List BayIx) : Calm z (State.sendAllToWait l s) := by
  induction l generalizing s with
  | nil => exact hz
  | cons b bs ih => exact ih (calm_sendToWait hz b)

theorem calm_formAllowances {z s : State} (hz : Calm z s) : Calm z s.formAllowances :=
  { hz with store := hz.store }

theorem calm_issueSetpoint {z s : State} (hz : Calm z s) : Calm z s.issueSetpoint := by
  unfold State.issueSetpoint
  dsimp only
  split
  · exact calm_queueSetpoint hz _
  · exact hz

theorem calm_trimSetpoint {z s : State} (hz : Calm z s) : Calm z s.trimSetpoint := by
  unfold State.trimSetpoint
  split
  · exact hz
  · dsimp only
    split
    · exact hz
    · exact calm_issueSetpoint (calm_allot hz _)

theorem calm_formAndTrim {z s : State} (hz : Calm z s) : Calm z s.formAndTrim :=
  calm_trimSetpoint (calm_formAllowances hz)

theorem calm_issueGrant {z s : State} (hz : Calm z s) (force : Bool) (b : BayIx) : Calm z (s.issueGrant force b) := by
  unfold State.issueGrant
  dsimp only
  split
  · exact calm_queueGrant hz _ _
  · exact hz

theorem calm_issueGrants {z s : State} (hz : Calm z s) (held l : List BayIx) :
    Calm z (State.issueGrants held l s) := by
  induction l generalizing s with
  | nil => exact hz
  | cons b bs ih => exact ih (calm_issueGrant hz _ b)

theorem calm_issueCap {z s : State} (hz : Calm z s) (i : StringIx) : Calm z (s.issueCap i) := by
  unfold State.issueCap
  dsimp only
  split
  · exact calm_queueCap hz _ _
  · exact hz

theorem calm_issueCaps {z s : State} (hz : Calm z s) (l : List StringIx) : Calm z (State.issueCaps l s) := by
  induction l generalizing s with
  | nil => exact hz
  | cons i is ih => exact ih (calm_issueCap hz i)

theorem calm_waitAll {z s : State} (hz : Calm z s) (l : List BayIx) : Calm z (State.waitAll l s) := by
  induction l generalizing s with
  | nil => exact hz
  | cons b bs ih => exact ih (calm_moveToWait hz b)

theorem calm_chargeAll {z s : State} (hz : Calm z s) (l : List BayIx) : Calm z (State.chargeAll l s) := by
  induction l generalizing s with
  | nil => exact hz
  | cons b bs ih => exact ih (calm_moveToCharging hz b)

theorem calm_chooseStance {z s : State} (hz : Calm z s) (cap grants : Nat) : Calm z (s.chooseStance cap grants) := by
  unfold State.chooseStance
  split <;> exact { hz with }

theorem calm_normalRound {z s : State} (hz : Calm z s) : Calm z s.normalRound := by
  unfold State.normalRound
  dsimp only
  generalize State.plan _ = p
  generalize State.importCap _ = cap
  refine calm_askPage (calm_issueCaps (calm_issueSetpoint (calm_issueGrants (calm_chargeAll (calm_waitAll
    (calm_chooseStance ?_ _ _) _) _) _ _)) _)
  have k : Calm z s.roundInputs := { calm_formAllowances hz with store := hz.store }
  exact calm_allot k _

theorem calm_blindRound {z s : State} (hz : Calm z s) : Calm z s.blindRound :=
  calm_askPage (calm_issueSetpoint (calm_issueGrants (calm_allot (calm_allot hz _) _) _ _))

theorem calm_oneRound {z s : State} (hz : Calm z s) : Calm z s.oneRound := by
  unfold State.oneRound
  split
  · exact calm_normalRound hz
  · exact calm_blindRound hz

theorem calm_rounds {z s : State} (hz : Calm z s) (n : Nat) : Calm z (State.rounds n s) := by
  induction n generalizing s with
  | zero => exact hz
  | succ n ih => exact ih (calm_oneRound hz)

/-- The rounds asked of a state leave it calm, with no round asked. -/
theorem calm_runRounds (s : State) : Calm { s with roundsAsked := 0 } s.runRounds := by
  unfold State.runRounds
  dsimp only
  split
  · exact calm_rounds (Calm.rfl' _) _
  · exact Calm.rfl' _

end Sys2Proof.Machine
end

