-- ==== Sys2Proof/Laws/Memory.lean ====
section
/-!
SUPPORT. The laws of the exchange memory: what a read gives after a write, byte by byte and word by word, and that every
write keeps the canonical form.
-/
namespace Sys2Proof.Machine

set_option Elab.async false

theorem Memory.read_nil (x : Nat) : Memory.read [] x = 0 := rfl

theorem Memory.read_append_left (m n : Memory) (x : Nat) (h : ∀ c ∈ n, c.1 ≠ x) :
    Memory.read (m ++ n) x = Memory.read m x := by
  induction m with
  | nil =>
    induction n with
    | nil => rfl
    | cons c n ih =>
      have hc : c.1 ≠ x := h c (by simp)
      have := ih (fun d hd => h d (by simp [hd]))
      simp only [List.nil_append] at this ⊢
      simp [Memory.read, hc, this]
  | cons c m ih => simp only [List.cons_append, Memory.read, ih]

theorem Memory.read_append_right (m n : Memory) (x : Nat) (h : ∀ c ∈ m, c.1 ≠ x) :
    Memory.read (m ++ n) x = Memory.read n x := by
  induction m with
  | nil => rfl
  | cons c m ih =>
    have hc : c.1 ≠ x := h c (by simp)
    simp only [List.cons_append, Memory.read, hc, if_false]
    exact ih (fun d hd => h d (by simp [hd]))

theorem Memory.read_filter (m : Memory) (p : Nat → Bool) (x : Nat) (h : p x = true) :
    Memory.read (m.filter (fun c => p c.1)) x = Memory.read m x := by
  induction m with
  | nil => rfl
  | cons c m ih =>
    by_cases hp : p c.1 = true
    · simp only [List.filter_cons, hp, if_true, Memory.read, ih]
    · have hc : c.1 ≠ x := fun e => hp (e ▸ h)
      simp only [List.filter_cons, hp, Memory.read, hc, if_false]
      simpa using ih

theorem cellsFrom_bounds (bs : List Byte) (a : Nat) : ∀ c ∈ cellsFrom a bs, a ≤ c.1 ∧ c.1 < a + bs.length := by
  induction bs generalizing a with
  | nil => simp [cellsFrom]
  | cons b bs ih =>
    intro c hc
    simp only [cellsFrom] at hc
    split at hc
    · have := ih (a + 1) c hc; simp only [List.length_cons]; omega
    · rcases List.mem_cons.1 hc with rfl | hc
      · simp
      · have := ih (a + 1) c hc; simp only [List.length_cons]; omega

theorem read_cellsFrom (bs : List Byte) (a x : Nat) :
    Memory.read (cellsFrom a bs) x = if a ≤ x then bs.getD (x - a) 0 else 0 := by
  induction bs generalizing a with
  | nil => simp [cellsFrom, Memory.read]
  | cons b bs ih =>
    by_cases hxa : x = a
    · subst hxa
      simp only [cellsFrom]
      split
      · next hb => rw [ih]; simp [hb]
      · simp [Memory.read]
    · have hax : a ≠ x := fun e => hxa e.symm
      have key : Memory.read (cellsFrom (a + 1) bs) x = if a ≤ x then (b :: bs).getD (x - a) 0 else 0 := by
        rw [ih]
        by_cases h : a ≤ x
        · have h1 : a + 1 ≤ x := by omega
          have h2 : x - a = (x - (a + 1)) + 1 := by omega
          simp only [h, h1, if_true, h2]
          simp
        · have h1 : ¬ a + 1 ≤ x := by omega
          simp [h, h1]
      simp only [cellsFrom]
      split
      · exact key
      · simp only [Memory.read, hax, if_false]; exact key

/-- What a byte reads as after a run of bytes is written. -/
theorem Memory.read_store (m : Memory) (a : Nat) (bs : List Byte) (x : Nat) :
    (m.store a bs).read x = if a ≤ x ∧ x < a + bs.length then bs.getD (x - a) 0 else m.read x := by
  unfold Memory.store
  have hlow : ∀ c ∈ m.filter (fun c => decide (c.1 < a)), c.1 < a := by
    intro c hc; simpa using (List.mem_filter.1 hc).2
  have hhigh : ∀ c ∈ m.filter (fun c => decide (a + bs.length ≤ c.1)), a + bs.length ≤ c.1 := by
    intro c hc; simpa using (List.mem_filter.1 hc).2
  have hmid := cellsFrom_bounds bs a
  by_cases h1 : x < a
  · rw [Memory.read_append_left _ _ _ ?_]
    · have : ¬ (a ≤ x ∧ x < a + bs.length) := by omega
      rw [if_neg this]
      exact Memory.read_filter m (fun n => decide (n < a)) x (by simpa using h1)
    · intro c hc
      rcases List.mem_append.1 hc with hc | hc
      · have := hmid c hc; omega
      · have := hhigh c hc; omega
  · rw [Memory.read_append_right _ _ _ (fun c hc => by have := hlow c hc; omega)]
    by_cases h2 : x < a + bs.length
    · rw [Memory.read_append_left _ _ _ (fun c hc => by have := hhigh c hc; omega), read_cellsFrom]
      have h3 : a ≤ x := by omega
      simp [h2, h3]
    · rw [Memory.read_append_right _ _ _ (fun c hc => by have := hmid c hc; omega)]
      have : ¬ (a ≤ x ∧ x < a + bs.length) := by omega
      rw [if_neg this]
      exact Memory.read_filter m (fun n => decide (a + bs.length ≤ n)) x (by simpa using h2)

theorem cellsFrom_wf (bs : List Byte) (a : Nat) : Memory.wf (cellsFrom a bs) := by
  induction bs generalizing a with
  | nil => simp [cellsFrom, Memory.wf]
  | cons b bs ih =>
    have h := ih (a + 1)
    simp only [cellsFrom]
    split
    · exact h
    · next hb =>
      refine ⟨List.pairwise_cons.2 ⟨fun c hc => ?_, h.1⟩, ?_⟩
      · have := (cellsFrom_bounds bs (a + 1) c hc).1; simp only; omega
      · intro c hc
        rcases List.mem_cons.1 hc with rfl | hc
        · exact hb
        · exact h.2 c hc

/-- A write keeps the canonical form. -/
theorem Memory.wf_store (m : Memory) (a : Nat) (bs : List Byte) (h : m.wf) : (m.store a bs).wf := by
  unfold Memory.store
  have hc := cellsFrom_wf bs a
  have hmid := cellsFrom_bounds bs a
  refine ⟨?_, ?_⟩
  · refine List.pairwise_append.2 ⟨h.1.filter _, List.pairwise_append.2 ⟨hc.1, h.1.filter _, ?_⟩, ?_⟩
    · intro c hc' d hd
      have h1 := (hmid c hc').2
      have h2 : a + bs.length ≤ d.1 := by simpa using (List.mem_filter.1 hd).2
      omega
    · intro c hc' d hd
      have h1 : c.1 < a := by simpa using (List.mem_filter.1 hc').2
      rcases List.mem_append.1 hd with hd | hd
      · have := (hmid d hd).1; omega
      · have h2 : a + bs.length ≤ d.1 := by simpa using (List.mem_filter.1 hd).2
        omega
  · intro c hc'
    rcases List.mem_append.1 hc' with hc' | hc'
    · exact h.2 c (List.mem_filter.1 hc').1
    · rcases List.mem_append.1 hc' with hc' | hc'
      · exact hc.2 c hc'
      · exact h.2 c (List.mem_filter.1 hc').1

/-! ## Words -/

theorem wordBytes_join (w : Word) : (w.extractLsb' 8 8 ++ w.extractLsb' 0 8 : BitVec 16) = w := by
  ext i hi
  simp only [BitVec.getElem_append, BitVec.getElem_extractLsb']
  by_cases h : i < 8
  · simp [h, BitVec.getLsbD_eq_getElem hi]
  · have : 8 + (i - 8) = i := by omega
    simp [h, this, BitVec.getLsbD_eq_getElem hi]

theorem flatMap_wordBytes_length (ws : List Word) : (ws.flatMap wordBytes).length = 2 * ws.length := by
  induction ws with
  | nil => rfl
  | cons w ws ih => simp only [List.flatMap_cons, List.length_append, ih, List.length_cons, wordBytes, List.length_nil]; omega

theorem flatMap_wordBytes_getD (ws : List Word) (i : Nat) :
    (ws.flatMap wordBytes).getD (2 * i) 0 = (ws.getD i 0).extractLsb' 8 8
      ∧ (ws.flatMap wordBytes).getD (2 * i + 1) 0 = (ws.getD i 0).extractLsb' 0 8 := by
  induction ws generalizing i with
  | nil => constructor <;> simp
  | cons w ws ih =>
    cases i with
    | zero => simp [wordBytes]
    | succ i =>
      have h1 : 2 * (i + 1) = (2 * i) + 1 + 1 := by omega
      have h2 : 2 * (i + 1) + 1 = (2 * i + 1) + 1 + 1 := by omega
      rw [h1]
      simp only [List.flatMap_cons, wordBytes, List.cons_append, List.nil_append, List.getD_cons_succ]
      exact ih i

/-- What a word reads as after a run of words is written. -/
theorem Memory.word_storeWords (m : Memory) (a : Nat) (ws : List Word) (x : Nat) :
    (m.storeWords a ws).word x = if a ≤ x ∧ x < a + ws.length then ws.getD (x - a) 0 else m.word x := by
  unfold Memory.word Memory.storeWords
  rw [Memory.read_store, Memory.read_store, flatMap_wordBytes_length]
  by_cases h : a ≤ x ∧ x < a + ws.length
  · have h1 : 2 * a ≤ 2 * x ∧ 2 * x < 2 * a + 2 * ws.length := by omega
    have h2 : 2 * a ≤ 2 * x + 1 ∧ 2 * x + 1 < 2 * a + 2 * ws.length := by omega
    have h3 : 2 * x - 2 * a = 2 * (x - a) := by omega
    have h4 : 2 * x + 1 - 2 * a = 2 * (x - a) + 1 := by omega
    rw [if_pos h1, if_pos h2, if_pos h, h3, h4, (flatMap_wordBytes_getD ws (x - a)).1,
      (flatMap_wordBytes_getD ws (x - a)).2, wordBytes_join]
  · have h1 : ¬ (2 * a ≤ 2 * x ∧ 2 * x < 2 * a + 2 * ws.length) := by omega
    have h2 : ¬ (2 * a ≤ 2 * x + 1 ∧ 2 * x + 1 < 2 * a + 2 * ws.length) := by omega
    rw [if_neg h1, if_neg h2, if_neg h]

/-- A byte outside the words written reads as before. -/
theorem Memory.read_storeWords_of_outside (m : Memory) (a : Nat) (ws : List Word) (x : Nat)
    (h : x < 2 * a ∨ 2 * (a + ws.length) ≤ x) : (m.storeWords a ws).read x = m.read x := by
  unfold Memory.storeWords
  rw [Memory.read_store, flatMap_wordBytes_length, if_neg (by omega)]

theorem Memory.wf_storeWords (m : Memory) (a : Nat) (ws : List Word) (h : m.wf) : (m.storeWords a ws).wf :=
  Memory.wf_store m _ _ h

/-- A run of words read from where it was written. -/
theorem Memory.words_storeWords (m : Memory) (a : Nat) (ws : List Word) (x n : Nat) (h1 : a ≤ x) (h2 : x + n ≤ a + ws.length) :
    (m.storeWords a ws).words x n = (ws.drop (x - a)).take n := by
  unfold Memory.words
  apply List.ext_getElem
  · simp; omega
  · intro i hi1 hi2
    simp only [List.length_map, List.length_range] at hi1
    simp only [List.getElem_map, List.getElem_range, List.getElem_take, List.getElem_drop]
    rw [Memory.word_storeWords, if_pos (by omega)]
    have : x + i - a = x - a + i := by omega
    rw [this, List.getD_eq_getElem _ _ (by omega)]

/-- A run of words apart from the words written reads as before. -/
theorem Memory.words_storeWords_apart (m : Memory) (a : Nat) (ws : List Word) (x n : Nat)
    (h : x + n ≤ a ∨ a + ws.length ≤ x) : (m.storeWords a ws).words x n = m.words x n := by
  unfold Memory.words
  apply List.map_congr_left
  intro i hi
  rw [List.mem_range] at hi
  rw [Memory.word_storeWords, if_neg (by omega)]

end Sys2Proof.Machine
end

