-- ==== Sys2Proof/Laws/Keeps.lean ====
section
/-!
SUPPORT. What every operation of the units may do to a state, said once: the relation Keeps, its algebra, and the lemma
that an update of fields outside it keeps it. The lemma keeps_f says it of the operation f.
-/
namespace Sys2Proof.Machine

set_option Elab.async false

/-- `t` is a state that the units' operations may make of `s`: it has the same model fields and latched levels, and each
law of Safety.lean that holds of `s` holds of `t`. -/
structure Keeps (s t : State) : Prop where
  inReset : t.inReset = s.inReset
  pending : t.pending = s.pending
  spiData : t.spiData = s.spiData
  elapsed : t.elapsed = s.elapsed
  mask : t.xchg.mask = s.xchg.mask
  sweeping : t.xchg.sweeping = s.xchg.sweeping
  timersOn : t.xchg.timersOn = s.xchg.timersOn
  straps : t.site.straps = s.site.straps
  memory : s.xchg.mem.wf → t.xchg.mem.wf
  urgent : laneUnique s.link.urgent → laneUnique t.link.urgent
  ordinary : laneUnique s.link.ordinary → laneUnique t.link.ordinary
  ack : s.ackInMet → t.ackInMet
  attn : spareClear s.xchg.attn → spareClear t.xchg.attn
  count : s.countOdd → t.countOdd
  tag : s.tagNonzero → t.tagNonzero
  table : s.tableFits → t.tableFits
  vouchers : s.vouchersFit → t.vouchersFit
  shares : s.sharesWhole → t.sharesWhole
  residue : s.residueSmall → t.residueSmall
  clock : s.clockFits → t.clockFits
  good : s.goodFits → t.goodFits

theorem Keeps.rfl' (s : State) : Keeps s s := by constructor <;> first | rfl | exact id

theorem Keeps.trans {s t u : State} (h : Keeps s t) (k : Keeps t u) : Keeps s u where
  inReset := k.inReset.trans h.inReset
  pending := k.pending.trans h.pending
  spiData := k.spiData.trans h.spiData
  elapsed := k.elapsed.trans h.elapsed
  mask := k.mask.trans h.mask
  sweeping := k.sweeping.trans h.sweeping
  timersOn := k.timersOn.trans h.timersOn
  straps := k.straps.trans h.straps
  memory := k.memory ∘ h.memory
  urgent := k.urgent ∘ h.urgent
  ordinary := k.ordinary ∘ h.ordinary
  ack := k.ack ∘ h.ack
  attn := k.attn ∘ h.attn
  count := k.count ∘ h.count
  tag := k.tag ∘ h.tag
  table := k.table ∘ h.table
  vouchers := k.vouchers ∘ h.vouchers
  shares := k.shares ∘ h.shares
  residue := k.residue ∘ h.residue
  clock := k.clock ∘ h.clock
  good := k.good ∘ h.good

/-- An update of fields that Keeps does not read. The equations are all true by rfl, which closes them. -/
theorem Keeps.upd {a : State} (s : State) {l : BayLink} {se : SessionUnit} {m : MeterUnit} {al : AllotUnit}
    {ho : HoldController} {gr : GridWatch} {st : StoreUnit} {pr : PricingUnit} {nv : StoreImage} {rc : ReceiptUnit}
    {x : ExchangeUnit} {si : SiteUnit} {el : Nat} {ir : Bool} {rd : Option RunState} {ra pa : Nat} {sd : Word}
    {pe : List Instr}
    (inReset : ir = s.inReset := by rfl) (pending : pe = s.pending := by rfl) (spiData : sd = s.spiData := by rfl)
    (elapsed : el = s.elapsed := by rfl) (straps : si.straps = s.site.straps := by rfl)
    (urgent : l.urgent = s.link.urgent := by rfl) (ordinary : l.ordinary = s.link.ordinary := by rfl)
    (tag : l.nextTag = s.link.nextTag := by rfl) (ack : ho.ack = s.hold.ack := by rfl)
    (state : ho.state = s.hold.state := by rfl) (good : ho.good = s.hold.good := by rfl)
    (table : se.table = s.sess.table := by rfl) (vouchers : se.vouchers = s.sess.vouchers := by rfl)
    (shares : m.shares = s.meter.shares := by rfl) (residue : m.residue = s.meter.residue := by rfl)
    (mem : x.mem = s.xchg.mem := by rfl) (attn : x.attn = s.xchg.attn := by rfl)
    (mask : x.mask = s.xchg.mask := by rfl) (sweeping : x.sweeping = s.xchg.sweeping := by rfl)
    (timersOn : x.timersOn = s.xchg.timersOn := by rfl) (generation : x.generation = s.xchg.generation := by rfl)
    (rewriting : x.rewriting = s.xchg.rewriting := by rfl) (clock : x.clock = s.xchg.clock := by rfl) (h : Keeps a s) :
    Keeps a ⟨l, se, m, al, ho, gr, st, pr, nv, rc, x, si, el, ir, rd, ra, pa, sd, pe⟩ := by
  refine h.trans ⟨inReset, pending, spiData, elapsed, mask, sweeping, timersOn, straps, ?_, ?_, ?_, ?_, ?_, ?_, ?_, ?_,
    ?_, ?_, ?_, ?_, ?_⟩
  · show _ → Memory.wf x.mem; rw [mem]; exact id
  · show _ → laneUnique l.urgent; rw [urgent]; exact id
  · show _ → laneUnique l.ordinary; rw [ordinary]; exact id
  · unfold State.ackInMet; dsimp only; rw [ack, state]; exact id
  · show _ → spareClear x.attn; rw [attn]; exact id
  · unfold State.countOdd; dsimp only; rw [generation, rewriting]; exact id
  · unfold State.tagNonzero; dsimp only; rw [tag]; exact id
  · unfold State.tableFits; dsimp only; rw [table]; exact id
  · unfold State.vouchersFit; dsimp only; rw [vouchers]; exact id
  · unfold State.sharesWhole; dsimp only; rw [shares]; exact id
  · unfold State.residueSmall; dsimp only; rw [residue]; exact id
  · unfold State.clockFits; dsimp only; rw [clock]; exact id
  · unfold State.goodFits; dsimp only; rw [good]; exact id

end Sys2Proof.Machine
end

