-- ==== Sys2Proof/Laws/KeepsBase.lean ====
section
/-!
SUPPORT. Keeps for the operations that change a field it reads: the memory, ATTN, the lanes, the next-tag count, the
session and voucher tables, the hold controller, the shares and the residue.
-/
namespace Sys2Proof.Machine

set_option Elab.async false

theorem keeps_writeWords {a s : State} (h : Keeps a s) (x : Nat) (ws : List Word) : Keeps a (s.writeWords x ws) :=
  { h with memory := fun k => Memory.wf_storeWords _ _ _ (h.memory k) }

theorem spareClear_or (w v : Word) (hw : spareClear w) (hv : spareClear v) : spareClear (w ||| v) := by
  unfold spareClear at *
  rw [BitVec.and_comm] at *
  rw [BitVec.and_or_distrib_left, hw, hv]
  rfl

theorem spareClear_bit (b : Attention) : spareClear b.bit := by
  cases b <;> (unfold spareClear; decide)

theorem keeps_raise {a s : State} (h : Keeps a s) (b : Attention) : Keeps a (s.raise b) :=
  { h with attn := fun k => spareClear_or _ _ (h.attn k) (spareClear_bit b) }

/-! ## Lanes -/

/-- Two entries may stand in one lane. -/
abbrev LaneEntry.apart (a b : LaneEntry) : Prop :=
  ¬ (a.frame.body.laneKind = b.frame.body.laneKind ∧ a.frame.target = b.frame.target)

theorem laneUnique_filter (l : List LaneEntry) (p : LaneEntry → Bool) (h : laneUnique l) : laneUnique (l.filter p) :=
  List.Pairwise.filter p h

theorem holds_iff (x : LaneEntry) (k : LaneKind) (t : Option Target) :
    x.holds k t = true ↔ x.frame.body.laneKind = k ∧ x.frame.target = t := by
  simp [LaneEntry.holds]

theorem laneUnique_joinAt (e : LaneEntry) (l : List LaneEntry) (h : laneUnique l) : laneUnique (joinAt e l) := by
  unfold joinAt
  split
  · refine (List.pairwise_map.2 (h.imp ?_))
    intro x y hxy
    split <;> split
    · next hx hy =>
      exact absurd ⟨((holds_iff ..).1 hx).1.trans ((holds_iff ..).1 hy).1.symm,
        ((holds_iff ..).1 hx).2.trans ((holds_iff ..).1 hy).2.symm⟩ hxy
    · next hx hy => exact fun c => hy ((holds_iff ..).2 ⟨c.1.symm, c.2.symm⟩)
    · next hx hy => exact fun c => hx ((holds_iff ..).2 ⟨c.1, c.2⟩)
    · exact hxy
  · next hn =>
    refine List.pairwise_append.2 ⟨h, List.pairwise_singleton _ _, ?_⟩
    intro x hx y hy c
    rw [List.mem_singleton] at hy
    subst hy
    exact hn (List.any_eq_true.2 ⟨x, hx, (holds_iff ..).2 c⟩)

theorem laneUnique_dropFrames (k : LaneKind) (t : Option Target) (l : List LaneEntry) (h : laneUnique l) :
    laneUnique (dropFrames k t l) := laneUnique_filter l _ h

theorem keeps_join {a s : State} (h : Keeps a s) (lane : Lane) (f : Frame) (cycle : Bool) :
    Keeps a (s.join lane f cycle) := by
  unfold State.join
  split
  · exact h
  · cases lane with
    | ordinary => exact { h with ordinary := fun k => laneUnique_joinAt _ _ (h.ordinary k) }
    | urgent =>
      cases f.body.laneKind <;>
      exact { h with urgent := fun k => by
                      first
                      | exact laneUnique_joinAt _ _ (h.urgent k)
                      | exact laneUnique_joinAt _ _ (laneUnique_dropFrames _ _ _ (h.urgent k)),
                     ordinary := fun k => laneUnique_dropFrames _ _ _ (h.ordinary k) }

theorem tagAfter_nonzero (n : Byte) (h : n ≠ 0) : (if n = 255 then (1 : Byte) else n + 1) ≠ 0 := by
  revert n; decide

theorem keeps_queueName {a s : State} (h : Keeps a s) (t : Target) : Keeps a (s.queueName t) := by
  have k := keeps_join h .ordinary ⟨some t, .name s.link.nextTag⟩ false
  unfold State.queueName
  exact { k with tag := fun hk => tagAfter_nonzero _ (h.tag hk) }

theorem pairwise_of_mem {l : List LaneEntry} (sym : ∀ u v : LaneEntry, u.apart v → v.apart u) (h : laneUnique l)
    {x y : LaneEntry} (hx : x ∈ l) (hy : y ∈ l) (hne : x ≠ y) : x.apart y :=
  haveI : Std.Symm LaneEntry.apart := ⟨sym⟩
  List.Pairwise.forall h hx hy hne

theorem laneUnique_headFirst (e : LaneEntry) (l : List LaneEntry) (h : laneUnique l)
    (he : ∀ x ∈ l, e.apart x) : laneUnique (l.filter (·.head) ++ e :: l.filter (fun x => !x.head)) := by
  refine List.pairwise_append.2 ⟨laneUnique_filter _ _ h, List.pairwise_cons.2 ⟨?_, laneUnique_filter _ _ h⟩, ?_⟩
  · intro x hx; exact he x (List.mem_filter.1 hx).1
  · intro x hx y hy
    have hxl := List.mem_filter.1 hx
    rcases List.mem_cons.1 hy with rfl | hy
    · exact fun c => he x hxl.1 ⟨c.1.symm, c.2.symm⟩
    · have hyl := List.mem_filter.1 hy
      intro c
      have hne : x ≠ y := by
        rintro rfl
        have h1 := hxl.2
        have h2 := hyl.2
        simp only [h1, Bool.not_true] at h2
        cases h2
      have sym : ∀ u v : LaneEntry, u.apart v → v.apart u := fun _ _ hh cc => hh ⟨cc.1.symm, cc.2.symm⟩
      exact pairwise_of_mem sym h hxl.1 hyl.1 hne c

theorem keeps_placeHead {a s : State} (h : Keeps a s) (b : BayIx) : Keeps a (s.placeHead b) := by
  unfold State.placeHead
  split
  · exact h
  · refine { h with ordinary := fun k => ?_ }
    refine laneUnique_headFirst _ _ (laneUnique_dropFrames _ _ _ (h.ordinary k)) ?_
    intro x hx c
    have := (List.mem_filter.1 hx).2
    have hh : x.holds .link (some (.bay b)) = true := (holds_iff ..).2 ⟨c.1.symm, c.2.symm⟩
    simp [hh] at this

theorem keeps_purge {a s : State} (h : Keeps a s) (t : Target) : Keeps a (s.purge t) := by
  unfold State.purge
  exact { h with urgent := fun k => laneUnique_filter _ _ (h.urgent k),
                 ordinary := fun k => laneUnique_filter _ _ (h.ordinary k) }

theorem keeps_dropLink {a s : State} (h : Keeps a s) (t : Target) : Keeps a (s.dropLink t) :=
  { h with ordinary := fun k => laneUnique_dropFrames _ _ _ (h.ordinary k) }

theorem keeps_withdrawPark {a s : State} (h : Keeps a s) (b : BayIx) : Keeps a (s.withdrawPark b) := by
  unfold State.withdrawPark
  exact { h with urgent := fun k => laneUnique_dropFrames _ _ _ (h.urgent k) }

theorem keeps_takeFrame {a s : State} (h : Keeps a s) : Keeps a s.takeFrame := by
  unfold State.takeFrame
  split
  · split
    · next e es _ hu =>
      refine { h with urgent := fun k => ?_ }
      have := h.urgent k
      rw [hu] at this
      exact (List.pairwise_cons.1 this).2
    · next e es hu ho =>
      refine { h with ordinary := fun k => ?_ }
      have := h.ordinary k
      rw [ho] at this
      exact (List.pairwise_cons.1 this).2
    · exact h
  all_goals exact h

/-! ## The session and voucher tables -/

theorem keeps_mapOpen {a s : State} (h : Keeps a s) (b : BayIx) (f : Session → Session) : Keeps a (s.mapOpen b f) := by
  refine { h with table := fun k => ?_ }
  show (s.sess.table.map _).length ≤ 32
  rw [List.length_map]
  exact h.table k

theorem releaseVoucher_length (clock : Nat) (code : Option (BitVec 64)) (vs : List Voucher) :
    (releaseVoucher clock code vs).length ≤ vs.length := by
  cases code with
  | none => exact le_refl _
  | some c => unfold releaseVoucher; rw [List.length_map]; exact List.length_filter_le _ _

theorem keeps_dropVoid {a s : State} (h : Keeps a s) (x : Session) : Keeps a (s.dropVoid x) := by
  refine { h with table := fun k => (List.length_filter_le _ _).trans (h.table k),
                  vouchers := fun k => (releaseVoucher_length _ _ _).trans (h.vouchers k) }

/-- Records and entries taken out of the two tables. -/
theorem Keeps.filterTables {z s : State} (hz : Keeps z s) (p : Session → Bool) {vs : List Voucher}
    (hv : vs.length ≤ s.sess.vouchers.length) :
    Keeps z { s with sess.table := s.sess.table.filter p, sess.vouchers := vs } :=
  { hz with table := fun k => (List.length_filter_le _ _).trans (hz.table k), vouchers := fun k => hv.trans (hz.vouchers k) }

/-- The Bay Link Unit set, its lanes unique and its next-tag count as before. -/
theorem Keeps.setLink {z s : State} (hz : Keeps z s) (l : BayLink) (hu : laneUnique l.urgent) (ho : laneUnique l.ordinary)
    (ht : l.nextTag = s.link.nextTag) : Keeps z { s with link := l } :=
  { hz with urgent := fun _ => hu, ordinary := fun _ => ho,
            tag := fun k => by unfold State.tagNonzero; dsimp only; rw [ht]; exact hz.tag k }

/-- The voucher table set. -/
theorem Keeps.setVouchers {z s : State} (hz : Keeps z s) (vs : List Voucher) (hv : s.vouchersFit → vs.length ≤ 64) :
    Keeps z { s with sess.vouchers := vs } := { hz with vouchers := fun k => hv (hz.vouchers k) }

end Sys2Proof.Machine
end

