-- ==== Sys2Proof/Laws/KeepsParts.lean ====
section
/-!
SUPPORT. Keeps for the operations of memory, answers, lanes, the Store Unit, the Pricing Unit and the Receipt Unit.
-/
namespace Sys2Proof.Machine

set_option Elab.async false

theorem keeps_hostWords {z s : State} (hz : Keeps z s) (l : List HostWrite) :
    Keeps z (State.hostWords s l) := by
  induction l generalizing s with
  | nil => simpa only [State.hostWords] using hz
  | cons x xs ih =>
    simp only [State.hostWords]
    (repeat first
      | with_reducible exact hz | with_reducible apply ih | with_reducible apply keeps_writeWords)

theorem keeps_setRec {z s : State} (hz : Keeps z s) (t : Target) (r : ModuleRec) : Keeps z (s.setRec t r) := by
  simp only [State.setRec]
  repeat first | with_reducible exact hz | refine Keeps.upd _ (h := ?_)

theorem keeps_setBay {z s : State} (hz : Keeps z s) (b : BayIx) (r : BayRec) : Keeps z (s.setBay b r) := by
  simp only [State.setBay]
  repeat first | with_reducible exact hz | refine Keeps.upd _ (h := ?_)

theorem keeps_setGrant {z s : State} (hz : Keeps z s) (b : BayIx) (w : Nat) : Keeps z (s.setGrant b w) := by
  simp only [State.setGrant]
  repeat first | with_reducible exact hz | refine Keeps.upd _ (h := ?_)

theorem keeps_setString {z s : State} (hz : Keeps z s) (i : StringIx) (r : StringRec) :
    Keeps z (s.setString i r) := by
  simp only [State.setString]
  repeat first | with_reducible exact hz | refine Keeps.upd _ (h := ?_)

theorem keeps_askRound {z s : State} (hz : Keeps z s) : Keeps z (s.askRound) := by
  simp only [State.askRound]
  (repeat' split) <;> (repeat first | with_reducible exact hz | refine Keeps.upd _ (h := ?_))

theorem keeps_askPage {z s : State} (hz : Keeps z s) : Keeps z (s.askPage) := by
  simp only [State.askPage]
  repeat first | with_reducible exact hz | refine Keeps.upd _ (h := ?_)

theorem keeps_answerSlot {z s : State} (hz : Keeps z s) (slot : Fin 48) (ticket : Word) (r : Reply) :
    Keeps z (s.answerSlot slot ticket r) := by
  simp only [State.answerSlot]
  (repeat' split) <;> (repeat first
    | with_reducible exact hz | with_reducible apply keeps_writeWords | with_reducible apply keeps_raise
    | refine Keeps.upd _ (h := ?_))

theorem keeps_setPlace {z s : State} (hz : Keeps z s) (p : Fin 8) (h : Option Held) : Keeps z (s.setPlace p h) := by
  simp only [State.setPlace]
  repeat first | with_reducible exact hz | refine Keeps.upd _ (h := ?_)

theorem keeps_answerPlace {z s : State} (hz : Keeps z s) (p : Fin 8) (r : Reply) : Keeps z (s.answerPlace p r) := by
  simp only [State.answerPlace]
  (repeat' split) <;> (repeat first
    | with_reducible exact hz | with_reducible apply keeps_answerSlot | with_reducible apply keeps_setPlace
    | refine Keeps.upd _ (h := ?_))

theorem keeps_answerPlaces {z s : State} (hz : Keeps z s) (r : Reply) (l : List (Fin 8)) :
    Keeps z (State.answerPlaces r l s) := by
  induction l generalizing s with
  | nil => simpa only [State.answerPlaces] using hz
  | cons x xs ih =>
    simp only [State.answerPlaces]
    (repeat first
      | with_reducible exact hz | with_reducible apply ih | with_reducible apply keeps_answerPlace)

theorem keeps_answerAll {z s : State} (hz : Keeps z s) (k : Kind) (n : Nat) (r : Reply) :
    Keeps z (s.answerAll k n r) := by
  simp only [State.answerAll]
  repeat first | with_reducible exact hz | with_reducible apply keeps_answerPlaces

theorem keeps_queueGrant {z s : State} (hz : Keeps z s) (b : BayIx) (units : Nat) :
    Keeps z (s.queueGrant b units) := by
  simp only [State.queueGrant]
  (repeat' split) <;> (repeat first
    | with_reducible exact hz | with_reducible apply keeps_setRec | with_reducible apply keeps_join
    | refine Keeps.upd _ (h := ?_))

theorem keeps_queueCap {z s : State} (hz : Keeps z s) (i : StringIx) (units : Nat) :
    Keeps z (s.queueCap i units) := by
  simp only [State.queueCap]
  (repeat' split) <;> (repeat first
    | with_reducible exact hz | with_reducible apply keeps_setRec | with_reducible apply keeps_join
    | refine Keeps.upd _ (h := ?_))

theorem keeps_queueSetpoint {z s : State} (hz : Keeps z s) (v : Setpoint) : Keeps z (s.queueSetpoint v) := by
  simp only [State.queueSetpoint]
  (repeat' split) <;> (repeat first
    | with_reducible exact hz | with_reducible apply keeps_setRec | with_reducible apply keeps_join
    | refine Keeps.upd _ (h := ?_))

theorem keeps_queueLatch {z s : State} (hz : Keeps z s) (b : BayIx) (l : Latch) : Keeps z (s.queueLatch b l) := by
  simp only [State.queueLatch]
  (repeat' split) <;> (repeat first
    | with_reducible exact hz | with_reducible apply keeps_join | with_reducible apply keeps_release
    | refine Keeps.upd _ (h := ?_))

theorem keeps_queueShow {z s : State} (hz : Keeps z s) (b : BayIx) (m : Message) : Keeps z (s.queueShow b m) := by
  simp only [State.queueShow]
  (repeat' split) <;> (repeat first | with_reducible exact hz | with_reducible apply keeps_join)

theorem keeps_queuePark {z s : State} (hz : Keeps z s) (b : BayIx) : Keeps z (s.queuePark b) := by
  simp only [State.queuePark]
  repeat first | with_reducible exact hz | with_reducible apply keeps_join

theorem keeps_queueWho {z s : State} (hz : Keeps z s) (t : Target) (cycle : Bool) : Keeps z (s.queueWho t cycle) := by
  simp only [State.queueWho]
  repeat first | with_reducible exact hz | with_reducible apply keeps_join

theorem keeps_queuePoll {z s : State} (hz : Keeps z s) (t : Target) : Keeps z (s.queuePoll t) := by
  simp only [State.queuePoll]
  repeat first | with_reducible exact hz | with_reducible apply keeps_join

theorem keeps_queueBroadcast {z s : State} (hz : Keeps z s) : Keeps z (s.queueBroadcast) := by
  simp only [State.queueBroadcast]
  repeat first | with_reducible exact hz | with_reducible apply keeps_join

theorem keeps_headPoll {z s : State} (hz : Keeps z s) (b : BayIx) : Keeps z (s.headPoll b) := by
  simp only [State.headPoll]
  (repeat' split) <;> (repeat first | with_reducible exact hz | with_reducible apply keeps_placeHead)

theorem keeps_staleName {z s : State} (hz : Keeps z s) (t : Target) : Keeps z (s.staleName t) := by
  simp only [State.staleName]
  (repeat' split) <;> (repeat first | with_reducible exact hz | refine Keeps.upd _ (h := ?_))

theorem keeps_formAllowances {z s : State} (hz : Keeps z s) : Keeps z (s.formAllowances) := by
  simp only [State.formAllowances]
  repeat first | with_reducible exact hz | refine Keeps.upd _ (h := ?_)

theorem keeps_issueSetpoint {z s : State} (hz : Keeps z s) : Keeps z (s.issueSetpoint) := by
  simp only [State.issueSetpoint]
  (repeat' split) <;> (repeat first | with_reducible exact hz | with_reducible apply keeps_queueSetpoint)

theorem keeps_trimSetpoint {z s : State} (hz : Keeps z s) : Keeps z (s.trimSetpoint) := by
  simp only [State.trimSetpoint]
  (repeat' split) <;> (repeat first
    | with_reducible exact hz | with_reducible apply keeps_issueSetpoint | refine Keeps.upd _ (h := ?_))

theorem keeps_formAndTrim {z s : State} (hz : Keeps z s) : Keeps z (s.formAndTrim) := by
  simp only [State.formAndTrim]
  repeat first
    | with_reducible exact hz | with_reducible apply keeps_formAllowances | with_reducible apply keeps_trimSetpoint

theorem keeps_enterBackup {z s : State} (hz : Keeps z s) : Keeps z (s.enterBackup) := by
  simp only [State.enterBackup]
  (repeat' split) <;> (repeat first
    | with_reducible exact hz | with_reducible apply keeps_queueSetpoint | refine Keeps.upd _ (h := ?_))

theorem keeps_conditionChanged {z s : State} (hz : Keeps z s) (old new : Condition) :
    Keeps z (s.conditionChanged old new) := by
  simp only [State.conditionChanged]
  (repeat' split) <;> (repeat first
    | with_reducible exact hz | with_reducible apply keeps_enterBackup | with_reducible apply keeps_trimSetpoint
    | refine Keeps.upd _ (h := ?_))

theorem keeps_deriveCondition {z s : State} (hz : Keeps z s) : Keeps z (s.deriveCondition) := by
  simp only [State.deriveCondition]
  (repeat' split) <;> (repeat first
    | with_reducible exact hz | with_reducible apply keeps_formAllowances | with_reducible apply keeps_raise
    | with_reducible apply keeps_askPage | with_reducible apply keeps_conditionChanged
    | refine Keeps.upd _ (h := ?_))

theorem keeps_setHoldView {z s : State} (hz : Keeps z s) (missed : Bool) : Keeps z (s.setHoldView missed) := by
  simp only [State.setHoldView]
  (repeat' split) <;> (repeat first
    | with_reducible exact hz | with_reducible apply keeps_formAndTrim | refine Keeps.upd _ (h := ?_))

theorem keeps_setGridView {z s : State} (hz : Keeps z s) (absent : Bool) : Keeps z (s.setGridView absent) := by
  simp only [State.setGridView]
  repeat first
    | with_reducible exact hz | with_reducible apply keeps_deriveCondition | refine Keeps.upd _ (h := ?_)

theorem keeps_testReserve {z s : State} (hz : Keeps z s) : Keeps z (s.testReserve) := by
  simp only [State.testReserve]
  repeat first | with_reducible exact hz | refine Keeps.upd _ (h := ?_)

theorem keeps_converterEnrolled {z s : State} (hz : Keeps z s) (k : EnrolKind) (rating : Nat) :
    Keeps z (s.converterEnrolled k rating) := by
  simp only [State.converterEnrolled]
  (repeat' split) <;> (repeat first
    | with_reducible exact hz | with_reducible apply keeps_deriveCondition | with_reducible apply keeps_formAndTrim
    | refine Keeps.upd _ (h := ?_))

theorem keeps_converterDown {z s : State} (hz : Keeps z s) : Keeps z (s.converterDown) := by
  simp only [State.converterDown]
  (repeat' split) <;> (repeat first
    | with_reducible exact hz | with_reducible apply keeps_deriveCondition | refine Keeps.upd _ (h := ?_))

theorem keeps_converterMismatch {z s : State} (hz : Keeps z s) : Keeps z (s.converterMismatch) := by
  simp only [State.converterMismatch]
  repeat first
    | with_reducible exact hz | with_reducible apply keeps_deriveCondition | refine Keeps.upd _ (h := ?_)

theorem keeps_formingWatch {z s : State} (hz : Keeps z s) : Keeps z (s.formingWatch) := by
  simp only [State.formingWatch]
  (repeat' split) <;> (repeat first | with_reducible exact hz | with_reducible apply keeps_queueSetpoint)

theorem keeps_converterReport {z s : State} (hz : Keeps z s) (r : StoreReport) : Keeps z (s.converterReport r) := by
  simp only [State.converterReport]
  repeat first
    | with_reducible exact hz | with_reducible apply keeps_testReserve | with_reducible apply keeps_deriveCondition
    | with_reducible apply keeps_formingWatch | refine Keeps.upd _ (h := ?_)

theorem keeps_stringEnrolled {z s : State} (hz : Keeps z s) (i : StringIx) (k : EnrolKind) (rating : Nat) :
    Keeps z (s.stringEnrolled i k rating) := by
  simp only [State.stringEnrolled]
  (repeat' split) <;> (repeat first
    | with_reducible exact hz | with_reducible apply keeps_setString | refine Keeps.upd _ (h := ?_))

theorem keeps_stringDown {z s : State} (hz : Keeps z s) (i : StringIx) : Keeps z (s.stringDown i) := by
  simp only [State.stringDown]
  (repeat' split) <;> (repeat first
    | with_reducible exact hz | with_reducible apply keeps_setString | refine Keeps.upd _ (h := ?_))

theorem keeps_stringMismatch {z s : State} (hz : Keeps z s) (i : StringIx) : Keeps z (s.stringMismatch i) := by
  simp only [State.stringMismatch]
  repeat first
    | with_reducible exact hz | with_reducible apply keeps_setString | refine Keeps.upd _ (h := ?_)

theorem keeps_stringReport {z s : State} (hz : Keeps z s) (i : StringIx) (r : StringReport) :
    Keeps z (s.stringReport i r) := by
  simp only [State.stringReport]
  repeat first
    | with_reducible exact hz | with_reducible apply keeps_setString | refine Keeps.upd _ (h := ?_)

theorem keeps_satedEnds {z s : State} (hz : Keeps z s) (b : BayIx) : Keeps z (s.satedEnds b) := by
  simp only [State.satedEnds]
  repeat first
    | with_reducible exact hz | with_reducible apply keeps_mapOpen | refine Keeps.upd _ (h := ?_)

theorem keeps_satedBegins {z s : State} (hz : Keeps z s) (b : BayIx) : Keeps z (s.satedBegins b) := by
  simp only [State.satedBegins]
  (repeat' split) <;> (repeat first
    | with_reducible exact hz | with_reducible apply keeps_mapOpen | refine Keeps.upd _ (h := ?_))

theorem keeps_setNumbers {z s : State} (hz : Keeps z s) (k : NumberKind) (n : NumberBlock) :
    Keeps z (s.setNumbers k n) := by
  simp only [State.setNumbers]
  (repeat' split) <;> (repeat first | with_reducible exact hz | refine Keeps.upd _ (h := ?_))

theorem keeps_askWrite {z s : State} (hz : Keeps z s) (j : StoreJob) : Keeps z (s.askWrite j) := by
  simp only [State.askWrite]
  repeat first | with_reducible exact hz | refine Keeps.upd _ (h := ?_)

theorem keeps_blockImpossible {z s : State} (hz : Keeps z s) : Keeps z (s.blockImpossible) := by
  simp only [State.blockImpossible]
  repeat first
    | with_reducible exact hz | with_reducible apply keeps_raise | refine Keeps.upd _ (h := ?_)

theorem keeps_askBlock {z s : State} (hz : Keeps z s) (k : NumberKind) (base : Nat) :
    Keeps z (s.askBlock k base) := by
  simp only [State.askBlock]
  (repeat' split) <;> (repeat first
    | with_reducible exact hz | with_reducible apply keeps_blockImpossible | with_reducible apply keeps_setNumbers
    | with_reducible apply keeps_askWrite | refine Keeps.upd _ (h := ?_))

theorem keeps_takeNumber {z s : State} (hz : Keeps z s) (k : NumberKind) (n : Nat) : Keeps z (s.takeNumber k n) := by
  simp only [State.takeNumber]
  (repeat' split) <;> (repeat first
    | with_reducible exact hz | with_reducible apply keeps_setNumbers | with_reducible apply keeps_askBlock
    | refine Keeps.upd _ (h := ?_))

theorem keeps_askNumberAgain {z s : State} (hz : Keeps z s) (k : NumberKind) : Keeps z (s.askNumberAgain k) := by
  simp only [State.askNumberAgain]
  (repeat' split) <;> (repeat first
    | with_reducible exact hz | with_reducible apply keeps_askBlock | refine Keeps.upd _ (h := ?_))

theorem keeps_answerWrite {z s : State} (hz : Keeps z s) (place : Option (Fin 8)) (r : Reply) :
    Keeps z (s.answerWrite place r) := by
  simp only [State.answerWrite]
  (repeat' split) <;> (repeat first
    | with_reducible exact hz | with_reducible apply keeps_answerPlace | refine Keeps.upd _ (h := ?_))

theorem keeps_startWrite {z s : State} (hz : Keeps z s) (j : StoreJob) (item : TariffItem) :
    Keeps z (s.startWrite j item) := by
  simp only [State.startWrite]
  repeat first | with_reducible exact hz | refine Keeps.upd _ (h := ?_)

theorem keeps_beginWrite {z s : State} (hz : Keeps z s) (j : StoreJob) : Keeps z (s.beginWrite j) := by
  simp only [State.beginWrite]
  (repeat' split) <;> (repeat first
    | with_reducible exact hz | with_reducible apply keeps_answerWrite | with_reducible apply keeps_startWrite
    | refine Keeps.upd _ (h := ?_))

theorem keeps_beginWrites {z s : State} (hz : Keeps z s) (l : Nat) :
    Keeps z (State.beginWrites l s) := by
  induction l generalizing s with
  | zero => simpa only [State.beginWrites] using hz
  | succ n ih =>
    simp only [State.beginWrites]
    (repeat' split) <;> (repeat first
      | with_reducible exact hz | with_reducible apply ih | with_reducible apply keeps_beginWrite
      | refine Keeps.upd _ (h := ?_))

theorem keeps_serveStore {z s : State} (hz : Keeps z s) : Keeps z (s.serveStore) := by
  simp only [State.serveStore]
  repeat first | with_reducible exact hz | with_reducible apply keeps_beginWrites

theorem keeps_setOffers {z s : State} (hz : Keeps z s) (long : Bool) (l : OfferList) :
    Keeps z (s.setOffers long l) := by
  simp only [State.setOffers]
  (repeat' split) <;> (repeat first | with_reducible exact hz | refine Keeps.upd _ (h := ?_))

theorem keeps_settleOffers {z s : State} (hz : Keeps z s) (long : Bool) (old : Word) :
    Keeps z (s.settleOffers long old) := by
  simp only [State.settleOffers]
  (repeat' split) <;> (repeat first
    | with_reducible exact hz | with_reducible apply keeps_setOffers | with_reducible apply keeps_writeWords
    | refine Keeps.upd _ (h := ?_))

theorem keeps_consumeOffer {z s : State} (hz : Keeps z s) (long : Bool) : Keeps z (s.consumeOffer long) := by
  simp only [State.consumeOffer]
  repeat first
    | with_reducible exact hz | with_reducible apply keeps_setOffers | with_reducible apply keeps_settleOffers
    | refine Keeps.upd _ (h := ?_)

theorem keeps_screenOffer {z s : State} (hz : Keeps z s) (long : Bool) (slip : Nat) :
    Keeps z (s.screenOffer long slip) := by
  simp only [State.screenOffer]
  (repeat' split) <;> (repeat first
    | with_reducible exact hz | with_reducible apply keeps_setOffers | refine Keeps.upd _ (h := ?_))

theorem keeps_screenOffers {z s : State} (hz : Keeps z s) (long : Bool) (l : List Nat) :
    Keeps z (State.screenOffers long l s) := by
  induction l generalizing s with
  | nil => simpa only [State.screenOffers] using hz
  | cons x xs ih =>
    simp only [State.screenOffers]
    (repeat first
      | with_reducible exact hz | with_reducible apply ih | with_reducible apply keeps_screenOffer)

theorem keeps_seeOffers {z s : State} (hz : Keeps z s) (long : Bool) : Keeps z (s.seeOffers long) := by
  simp only [State.seeOffers]
  (repeat' split) <;> (repeat first
    | with_reducible exact hz | with_reducible apply keeps_screenOffers | with_reducible apply keeps_setOffers
    | with_reducible apply keeps_settleOffers | refine Keeps.upd _ (h := ?_))

theorem keeps_noticesAfterRead {z s : State} (hz : Keeps z s) : Keeps z (s.noticesAfterRead) := by
  simp only [State.noticesAfterRead]
  (repeat' split) <;> (repeat first | with_reducible exact hz | refine Keeps.upd _ (h := ?_))

theorem keeps_seeReadMark {z s : State} (hz : Keeps z s) : Keeps z (s.seeReadMark) := by
  simp only [State.seeReadMark]
  (repeat' split) <;> (repeat first
    | with_reducible exact hz | with_reducible apply keeps_noticesAfterRead | refine Keeps.upd _ (h := ?_))

theorem keeps_placementNotices {z s : State} (hz : Keeps z s) : Keeps z (s.placementNotices) := by
  simp only [State.placementNotices]
  (repeat' split) <;> (repeat first
    | with_reducible exact hz | with_reducible apply keeps_raise | refine Keeps.upd _ (h := ?_))

theorem keeps_noticesAtPlacement {z s : State} (hz : Keeps z s) : Keeps z (s.noticesAtPlacement) :=
  keeps_placementNotices (Keeps.upd _ (h := hz))

theorem keeps_slipTest {z s : State} (hz : Keeps z s) (ok : Bool) : Keeps z (s.slipTest ok) := by
  simp only [State.slipTest]
  (repeat' split) <;> (repeat first
    | with_reducible exact hz | with_reducible apply keeps_raise | refine Keeps.upd _ (h := ?_))

theorem keeps_roomTest {z s : State} (hz : Keeps z s) : Keeps z (s.roomTest) := by
  simp only [State.roomTest]
  (repeat' split) <;> (repeat first
    | with_reducible exact hz | with_reducible apply keeps_raise | refine Keeps.upd _ (h := ?_))

theorem keeps_numberTest {z s : State} (hz : Keeps z s) : Keeps z (s.numberTest) := by
  simp only [State.numberTest]
  (repeat' split) <;> (repeat first
    | with_reducible exact hz | with_reducible apply keeps_askNumberAgain | refine Keeps.upd _ (h := ?_))

theorem keeps_placeReceipt {z s : State} (hz : Keeps z s) (x : Session) (long : Bool) (slip number : Nat) :
    Keeps z (s.placeReceipt x long slip number) := by
  simp only [State.placeReceipt]
  refine keeps_noticesAtPlacement ?_
  refine Keeps.filterTables (keeps_writeWords (Keeps.upd _
    (h := keeps_writeWords (keeps_writeWords (keeps_takeNumber (keeps_consumeOffer hz long) _ _) _ _) _ _)) _ _) _ ?_
  cases x.voucher with
  | none => exact le_refl _
  | some c => exact List.length_filter_le _ _

theorem keeps_attempt {z s : State} (hz : Keeps z s) : Keeps z (s.attempt).1 := by
  simp only [State.attempt]
  (repeat' split) <;> (repeat first
    | with_reducible exact hz | with_reducible apply keeps_slipTest | with_reducible apply keeps_roomTest
    | with_reducible apply keeps_numberTest | with_reducible apply keeps_placeReceipt
    | refine Keeps.upd _ (h := ?_))

theorem keeps_attempts {z s : State} (hz : Keeps z s) (l : Nat) :
    Keeps z (State.attempts l s) := by
  induction l generalizing s with
  | zero => simpa only [State.attempts] using hz
  | succ n ih =>
    simp only [State.attempts]
    (repeat' split) <;> (repeat first
      | with_reducible exact hz | with_reducible apply ih | with_reducible apply keeps_attempt)

theorem keeps_compose {z s : State} (hz : Keeps z s) : Keeps z (s.compose) := by
  simp only [State.compose]
  repeat first | with_reducible exact hz | with_reducible apply keeps_attempts

theorem keeps_sweepReceipts {z s : State} (hz : Keeps z s) : Keeps z (s.sweepReceipts) := by
  simp only [State.sweepReceipts]
  (repeat' split) <;> (repeat first
    | with_reducible exact hz | with_reducible apply keeps_seeReadMark | with_reducible apply keeps_compose
    | with_reducible apply keeps_seeOffers)

end Sys2Proof.Machine
end

