-- ==== Sys2Proof/Laws/KeepsSessions.lean ====
section
/-!
SUPPORT. Keeps for the operations of the Session Unit.
-/
namespace Sys2Proof.Machine

set_option Elab.async false

theorem keeps_setBayState {z s : State} (hz : Keeps z s) (b : BayIx) (st : BayState) :
    Keeps z (s.setBayState b st) := by
  simp only [State.setBayState]
  (repeat' split) <;> (repeat first
    | with_reducible exact hz | with_reducible apply keeps_setBay | with_reducible apply keeps_raise
    | with_reducible apply keeps_askPage | refine Keeps.upd _ (h := ?_))

theorem keeps_clearDraw {z s : State} (hz : Keeps z s) (b : BayIx) : Keeps z (s.clearDraw b) := by
  simp only [State.clearDraw]
  repeat first
    | with_reducible exact hz | with_reducible apply keeps_setBay | refine Keeps.upd _ (h := ?_)

theorem keeps_clearEnrol {z s : State} (hz : Keeps z s) (b : BayIx) : Keeps z (s.clearEnrol b) := by
  simp only [State.clearEnrol]
  repeat first
    | with_reducible exact hz | with_reducible apply keeps_setBay | refine Keeps.upd _ (h := ?_)

theorem keeps_allotLeave {z s : State} (hz : Keeps z s) (b : BayIx) : Keeps z (s.allotLeave b) := by
  simp only [State.allotLeave]
  (repeat' split) <;> (repeat first
    | with_reducible exact hz | with_reducible apply keeps_setGrant | with_reducible apply keeps_queueGrant
    | refine Keeps.upd _ (h := ?_))

theorem keeps_askPark {z s : State} (hz : Keeps z s) (b : BayIx) : Keeps z (s.askPark b) := by
  simp only [State.askPark]
  (repeat' split) <;> (repeat first | with_reducible exact hz | with_reducible apply keeps_queuePark)

theorem keeps_closeSession {z s : State} (hz : Keeps z s) (b : BayIx) (new : BayState) :
    Keeps z (s.closeSession b new) := by
  simp only [State.closeSession]
  (repeat' split) <;> (repeat first
    | with_reducible exact hz | with_reducible apply keeps_setBayState | with_reducible apply keeps_mapOpen
    | with_reducible apply keeps_setBay | with_reducible apply keeps_release
    | with_reducible apply keeps_queueLatch | with_reducible apply keeps_dropVoid
    | with_reducible apply keeps_compose | with_reducible apply keeps_answerAll
    | with_reducible apply keeps_askPark | with_reducible apply keeps_queueShow | refine Keeps.upd _ (h := ?_))

theorem keeps_recordCause {z s : State} (hz : Keeps z s) (b : BayIx) (c : EndCause) :
    Keeps z (s.recordCause b c) := by
  simp only [State.recordCause]
  repeat first
    | with_reducible exact hz | with_reducible apply keeps_mapOpen | refine Keeps.upd _ (h := ?_)

theorem keeps_closeAtOnce {z s : State} (hz : Keeps z s) (b : BayIx) (c : EndCause) (new : BayState) :
    Keeps z (s.closeAtOnce b c new) := by
  simp only [State.closeAtOnce]
  repeat first
    | with_reducible exact hz | with_reducible apply keeps_recordCause | with_reducible apply keeps_allotLeave
    | with_reducible apply keeps_closeSession | with_reducible apply keeps_askRound

theorem keeps_endSession {z s : State} (hz : Keeps z s) (b : BayIx) (c : EndCause) : Keeps z (s.endSession b c) := by
  simp only [State.endSession]
  (repeat' split) <;> (repeat first
    | with_reducible exact hz | with_reducible apply keeps_recordCause | with_reducible apply keeps_setBayState
    | with_reducible apply keeps_clearDraw | with_reducible apply keeps_queueShow
    | with_reducible apply keeps_allotLeave | with_reducible apply keeps_headPoll
    | with_reducible apply keeps_satedEnds | with_reducible apply keeps_askRound)

theorem sess_setNumbers (s : State) (k : NumberKind) (n : NumberBlock) : (s.setNumbers k n).sess = s.sess := by
  cases k <;> rfl

theorem sess_askBlock (s : State) (k : NumberKind) (base : Nat) : (s.askBlock k base).sess = s.sess := by
  unfold State.askBlock
  dsimp only
  split
  · rfl
  split
  · exact sess_setNumbers _ _ _
  · exact sess_setNumbers s k _

theorem sess_takeNumber (s : State) (k : NumberKind) (n : Nat) : (s.takeNumber k n).sess = s.sess := by
  unfold State.takeNumber
  dsimp only
  split
  · exact (sess_askBlock _ _ _).trans (sess_setNumbers _ _ _)
  · exact sess_setNumbers _ _ _

theorem bindVoucher_length (code : Option (BitVec 64)) (vs : List Voucher) :
    (bindVoucher code vs).length = vs.length := by
  cases code <;> simp [bindVoucher]

/-- An opening is made only while the table has fewer than 32 records (R30). -/
theorem keeps_openNow {z s : State} (hz : Keeps z s) (hlen : s.sess.table.length < 32) (b : BayIx) (n : Nat)
    (a : Authority) (account : Option (BitVec 128)) (code : Option (BitVec 64)) (limit : Option Nat) :
    Keeps z (s.openNow b n a account code limit) := by
  simp only [State.openNow]
  refine keeps_askRound (Keeps.upd _ (h := keeps_queueShow (keeps_setBay (keeps_setBayState
    (keeps_queueLatch (keeps_setBay ?_ _ _) _ _) _ _) _ _) _ _))
  have k := keeps_takeNumber hz .session n
  refine { k with table := fun _ => ?_, vouchers := fun h => ?_ }
  · show (_ ++ [_]).length ≤ 32
    rw [sess_takeNumber, List.length_append]
    exact hlen
  · show (bindVoucher code _).length ≤ 64
    rw [bindVoucher_length]
    exact k.vouchers h

theorem keeps_tryOpen {z s : State} (hz : Keeps z s) (b : BayIx) (a : Authority) (account : Option (BitVec 128))
    (code : Option (BitVec 64)) (limit : Option Nat) : Keeps z (s.tryOpen b a account code limit).1 := by
  unfold State.tryOpen
  split
  · exact hz
  split
  · exact keeps_queueShow hz _ _
  split
  · exact keeps_queueShow (keeps_askNumberAgain hz _) _ _
  split
  · exact keeps_queueShow hz _ _
  · next h =>
    have hlen : s.sess.table.length < 32 := Nat.lt_of_not_le h
    dsimp only
    with_reducible exact keeps_openNow hz hlen _ _ _ _ _ _

theorem keeps_tryFree {z s : State} (hz : Keeps z s) (b : BayIx) : Keeps z (s.tryFree b).1 := by
  have k := keeps_tryOpen hz b .free none none none
  unfold State.tryFree
  dsimp only
  generalize s.tryOpen b .free none none none = r at k ⊢
  split
  · exact k
  · exact keeps_setBay k _ _
  · exact k

theorem keeps_plugIn {z s : State} (hz : Keeps z s) (b : BayIx) : Keeps z (s.plugIn b).1 := by
  simp only [State.plugIn]
  (repeat' split) <;> (repeat first
    | with_reducible exact hz | with_reducible apply keeps_setBayState | with_reducible apply keeps_tryFree
    | with_reducible apply keeps_queueShow)

theorem keeps_wrongCode {z s : State} (hz : Keeps z s) (b : BayIx) : Keeps z (s.wrongCode b) := by
  simp only [State.wrongCode]
  (repeat' split) <;> (repeat first
    | with_reducible exact hz | with_reducible apply keeps_setBay | refine Keeps.upd _ (h := ?_))

theorem keeps_keypad {z s : State} (hz : Keeps z s) (b : BayIx) (code : BitVec 64) : Keeps z (s.keypad b code) := by
  unfold State.keypad
  split
  · exact hz
  split
  · exact keeps_queueShow hz _ _
  split
  · exact keeps_tryOpen hz _ _ _ _ _
  · exact keeps_wrongCode (keeps_queueShow hz _ _) _

theorem keeps_detectDraw {z s : State} (hz : Keeps z s) (b : BayIx) (power : Nat) :
    Keeps z (s.detectDraw b power) := by
  simp only [State.detectDraw]
  (repeat' split) <;> (repeat first
    | with_reducible exact hz | with_reducible apply keeps_setBay | with_reducible apply keeps_setBayState
    | with_reducible apply keeps_satedBegins | with_reducible apply keeps_satedEnds | refine Keeps.upd _ (h := ?_))

theorem keeps_reportRest {z s : State} (hz : Keeps z s) (b : BayIx) (r : BayReport) (skipKeypad : Bool) :
    Keeps z (s.reportRest b r skipKeypad) := by
  simp only [State.reportRest]
  (repeat' split) <;> (repeat first
    | with_reducible exact hz | with_reducible apply keeps_endSession | with_reducible apply keeps_keypad
    | with_reducible apply keeps_detectDraw | refine Keeps.upd _ (h := ?_))

theorem keeps_reportFault {z s : State} (hz : Keeps z s) (b : BayIx) : Keeps z (s.reportFault b) := by
  simp only [State.reportFault]
  (repeat' split) <;> (repeat first
    | with_reducible exact hz | with_reducible apply keeps_setBayState | with_reducible apply keeps_queueShow
    | with_reducible apply keeps_setBay | with_reducible apply keeps_closeAtOnce
    | with_reducible apply keeps_closeSession | refine Keeps.upd _ (h := ?_))

theorem keeps_reportConnector {z s : State} (hz : Keeps z s) (b : BayIx) (r : BayReport) :
    Keeps z (s.reportConnector b r) := by
  simp only [State.reportConnector]
  (repeat' split) <;> (repeat first
    | with_reducible exact hz | with_reducible apply keeps_plugIn | with_reducible apply keeps_reportRest
    | with_reducible apply keeps_tryFree | with_reducible apply keeps_setBayState
    | with_reducible apply keeps_setBay | with_reducible apply keeps_endSession | refine Keeps.upd _ (h := ?_))

theorem keeps_reportRecovered {z s : State} (hz : Keeps z s) (b : BayIx) (r : BayReport) :
    Keeps z (s.reportRecovered b r) := by
  simp only [State.reportRecovered]
  (repeat' split) <;> (repeat first
    | with_reducible exact hz | with_reducible apply keeps_plugIn | with_reducible apply keeps_reportRest
    | with_reducible apply keeps_setBayState)

theorem keeps_pollReport {z s : State} (hz : Keeps z s) (b : BayIx) (r : BayReport) (arrived : BayState) :
    Keeps z (s.pollReport b r arrived) := by
  simp only [State.pollReport]
  (repeat' split) <;> (repeat first
    | with_reducible exact hz | with_reducible apply keeps_setBay | with_reducible apply keeps_reportFault
    | with_reducible apply keeps_reportRecovered | with_reducible apply keeps_closeSession
    | with_reducible apply keeps_reportConnector | refine Keeps.upd _ (h := ?_))

theorem keeps_moveToWait {z s : State} (hz : Keeps z s) (b : BayIx) : Keeps z (s.moveToWait b) := by
  simp only [State.moveToWait]
  repeat first
    | with_reducible exact hz | with_reducible apply keeps_setBayState | with_reducible apply keeps_queueShow
    | with_reducible apply keeps_clearDraw | with_reducible apply keeps_satedEnds

theorem keeps_moveToCharging {z s : State} (hz : Keeps z s) (b : BayIx) : Keeps z (s.moveToCharging b) := by
  simp only [State.moveToCharging]
  repeat first
    | with_reducible exact hz | with_reducible apply keeps_setBayState | with_reducible apply keeps_queueShow
    | with_reducible apply keeps_clearDraw

theorem keeps_bayUnnamed {z s : State} (hz : Keeps z s) (b : BayIx) : Keeps z (s.bayUnnamed b) := by
  simp only [State.bayUnnamed]
  (repeat' split) <;> (repeat first
    | with_reducible exact hz | with_reducible apply keeps_setBayState | with_reducible apply keeps_clearEnrol
    | refine Keeps.upd _ (h := ?_))

theorem keeps_bayEnrolled {z s : State} (hz : Keeps z s) (b : BayIx) : Keeps z (s.bayEnrolled b) := by
  simp only [State.bayEnrolled]
  (repeat' split) <;> (repeat first
    | with_reducible exact hz | with_reducible apply keeps_setBayState | with_reducible apply keeps_clearEnrol
    | with_reducible apply keeps_askPark | with_reducible apply keeps_closeSession | refine Keeps.upd _ (h := ?_))

theorem keeps_closeReplaced {z s : State} (hz : Keeps z s) (b : BayIx) (new : BayState) :
    Keeps z (s.closeReplaced b new) := by
  simp only [State.closeReplaced]
  (repeat' split) <;> (repeat first
    | with_reducible exact hz | with_reducible apply keeps_closeAtOnce | with_reducible apply keeps_clearEnrol
    | with_reducible apply keeps_recordCause | with_reducible apply keeps_closeSession
    | refine Keeps.upd _ (h := ?_))

theorem keeps_bayReplaced {z s : State} (hz : Keeps z s) (b : BayIx) : Keeps z (s.bayReplaced b) := by
  simp only [State.bayReplaced]
  repeat first | with_reducible exact hz | with_reducible apply keeps_closeReplaced

theorem keeps_bayMismatch {z s : State} (hz : Keeps z s) (b : BayIx) : Keeps z (s.bayMismatch b) := by
  simp only [State.bayMismatch]
  (repeat' split) <;> (repeat first
    | with_reducible exact hz | with_reducible apply keeps_setBayState | with_reducible apply keeps_clearEnrol
    | with_reducible apply keeps_closeReplaced | refine Keeps.upd _ (h := ?_))

theorem keeps_baySilent {z s : State} (hz : Keeps z s) (b : BayIx) : Keeps z (s.baySilent b) := by
  simp only [State.baySilent]
  (repeat' split) <;> (repeat first
    | with_reducible exact hz | with_reducible apply keeps_closeAtOnce | with_reducible apply keeps_closeSession
    | with_reducible apply keeps_setBayState | refine Keeps.upd _ (h := ?_))

theorem keeps_bayEnrolFailed {z s : State} (hz : Keeps z s) (b : BayIx) (missed : Nat) :
    Keeps z (s.bayEnrolFailed b missed) := by
  simp only [State.bayEnrolFailed]
  (repeat' split) <;> (repeat first
    | with_reducible exact hz | with_reducible apply keeps_closeAtOnce | with_reducible apply keeps_baySilent
    | with_reducible apply keeps_closeSession | refine Keeps.upd _ (h := ?_))

theorem keeps_bayParked {z s : State} (hz : Keeps z s) (b : BayIx) : Keeps z (s.bayParked b) := by
  simp only [State.bayParked]
  (repeat' split) <;> (repeat first
    | with_reducible exact hz | with_reducible apply keeps_closeAtOnce | with_reducible apply keeps_closeSession
    | with_reducible apply keeps_setBayState | with_reducible apply keeps_setBay
    | with_reducible apply keeps_answerAll | refine Keeps.upd _ (h := ?_))

end Sys2Proof.Machine
end

