-- ==== Sys2Proof/Laws/KeepsAllot.lean ====
section
/-!
SUPPORT. Keeps for the operations of the hold controller, the grid watch, the rounds and the Meter Unit.
-/
namespace Sys2Proof.Machine

set_option Elab.async false

theorem keeps_sendToWait {z s : State} (hz : Keeps z s) (b : BayIx) : Keeps z (s.sendToWait b) := by
  simp only [State.sendToWait]
  (repeat' split) <;> (repeat first
    | with_reducible exact hz | with_reducible apply keeps_setGrant | with_reducible apply keeps_moveToWait
    | with_reducible apply keeps_queueGrant | refine Keeps.upd _ (h := ?_))

theorem keeps_sendAllToWait {z s : State} (hz : Keeps z s) (l : List BayIx) :
    Keeps z (State.sendAllToWait l s) := by
  induction l generalizing s with
  | nil => simpa only [State.sendAllToWait] using hz
  | cons x xs ih =>
    simp only [State.sendAllToWait]
    (repeat first
      | with_reducible exact hz | with_reducible apply ih | with_reducible apply keeps_sendToWait)

theorem keeps_setHold {z s : State} (hz : Keeps z s) (new : HoldState) : Keeps z (s.setHold new) := by
  unfold State.setHold
  dsimp only
  split
  · exact hz
  · have k : Keeps z { s with hold.state := new, hold.ack := decide (new = .met) } := { hz with ack := fun _ => rfl }
    split
    · exact keeps_setHoldView (keeps_askPage (keeps_raise k _)) _
    · exact keeps_askPage (keeps_raise k _)

/-- The deadline and the good-sample count set. -/
theorem keeps_count {z s : State} (hz : Keeps z s) (d : Option Nat) (n : Nat) (hn : n ≤ 3) :
    Keeps z { s with hold.deadline := d, hold.good := n } := { hz with good := fun _ => hn }

theorem keeps_answerHold {z s : State} (hz : Keeps z s) (o : Result) : Keeps z (s.answerHold o) := by
  simp only [State.answerHold]
  (repeat' split) <;> (repeat first
    | with_reducible exact hz | with_reducible apply keeps_answerPlace | refine Keeps.upd _ (h := ?_))

theorem keeps_demand {z s : State} (hz : Keeps z s) : Keeps z s.demand :=
  keeps_setHold (keeps_count hz _ 0 (by decide)) _

theorem keeps_release {z s : State} (hz : Keeps z s) : Keeps z s.release :=
  keeps_setHold (keeps_count hz _ 0 (by decide)) _

theorem keeps_reformLimit {z s : State} (hz : Keeps z s) (old : Option Nat) : Keeps z (s.reformLimit old) := by
  unfold State.reformLimit
  (repeat' split) <;> first | exact hz | exact keeps_demand hz | exact keeps_release hz | exact keeps_count hz _ 0 (by decide)

theorem keeps_enterMissed {z s : State} (hz : Keeps z s) : Keeps z (s.enterMissed) := by
  simp only [State.enterMissed]
  repeat first
    | with_reducible exact hz | with_reducible apply keeps_setHold | with_reducible apply keeps_sendAllToWait
    | with_reducible apply keeps_setHoldView | with_reducible apply keeps_answerHold | refine Keeps.upd _ (h := ?_)

theorem keeps_enterMet {z s : State} (hz : Keeps z s) : Keeps z s.enterMet :=
  keeps_answerHold (keeps_setHold (keeps_count hz _ 3 (le_refl _)) _) _

theorem keeps_countGood {z s : State} (hz : Keeps z s) : Keeps z s.countGood := by
  unfold State.countGood
  split
  · exact keeps_enterMet hz
  · next h => exact keeps_count hz _ _ (Nat.le_of_lt (Nat.lt_of_not_le h))

theorem keeps_holdSample {z s : State} (hz : Keeps z s) (power : Int) : Keeps z (s.holdSample power) := by
  unfold State.holdSample
  (repeat' split) <;>
    first | exact hz | exact keeps_demand hz | exact keeps_countGood hz | exact keeps_count hz _ 0 (by decide)

theorem keeps_holdDeadlinePasses {z s : State} (hz : Keeps z s) : Keeps z (s.holdDeadlinePasses) := by
  simp only [State.holdDeadlinePasses]
  (repeat' split) <;> (repeat first
    | with_reducible exact hz | with_reducible apply keeps_enterMissed | refine Keeps.upd _ (h := ?_))

theorem keeps_holdLine {z s : State} (hz : Keeps z s) (level : Bool) : Keeps z (s.holdLine level) := by
  simp only [State.holdLine]
  repeat first
    | with_reducible exact hz | with_reducible apply keeps_reformLimit | refine Keeps.upd _ (h := ?_)

theorem keeps_startHold {z s : State} (hz : Keeps z s) (p : Fin 8) (limit minutes : Nat) :
    Keeps z (s.startHold p limit minutes) := by
  simp only [State.startHold]
  (repeat' split) <;> (repeat first
    | with_reducible exact hz | with_reducible apply keeps_answerHold | with_reducible apply keeps_reformLimit
    | refine Keeps.upd _ (h := ?_))

theorem keeps_endRequest {z s : State} (hz : Keeps z s) (r : HoldRequest) : Keeps z (s.endRequest r) := by
  simp only [State.endRequest]
  (repeat' split) <;> (repeat first
    | with_reducible exact hz | with_reducible apply keeps_reformLimit | with_reducible apply keeps_answerPlace
    | refine Keeps.upd _ (h := ?_))

theorem keeps_holdExpires {z s : State} (hz : Keeps z s) : Keeps z (s.holdExpires) := by
  simp only [State.holdExpires]
  (repeat' split) <;> (repeat first | with_reducible exact hz | with_reducible apply keeps_endRequest)

theorem keeps_cancelHold {z s : State} (hz : Keeps z s) : Keeps z (s.cancelHold) := by
  simp only [State.cancelHold]
  repeat first
    | with_reducible exact hz | with_reducible apply keeps_reformLimit | refine Keeps.upd _ (h := ?_)

theorem keeps_restartHold {z s : State} (hz : Keeps z s) : Keeps z s.restartHold := by
  unfold State.restartHold
  dsimp only
  refine keeps_setHold ?_ _
  exact { hz with good := fun _ => Nat.zero_le 3 }

theorem keeps_setGrid {z s : State} (hz : Keeps z s) (new : GridState) (timer : ReturnTimer) :
    Keeps z (s.setGrid new timer) := by
  simp only [State.setGrid]
  (repeat' split) <;> (repeat first
    | with_reducible exact hz | with_reducible apply keeps_raise | with_reducible apply keeps_askPage
    | refine Keeps.upd _ (h := ?_))

theorem keeps_gridLost {z s : State} (hz : Keeps z s) : Keeps z (s.gridLost) := by
  simp only [State.gridLost]
  repeat first
    | with_reducible exact hz | with_reducible apply keeps_setGrid | with_reducible apply keeps_sendAllToWait
    | with_reducible apply keeps_setGridView

theorem keeps_gridPresent {z s : State} (hz : Keeps z s) : Keeps z (s.gridPresent) := by
  simp only [State.gridPresent]
  repeat first
    | with_reducible exact hz | with_reducible apply keeps_setGrid | with_reducible apply keeps_setGridView

theorem keeps_gridSample {z s : State} (hz : Keeps z s) (present : Bool) : Keeps z (s.gridSample present) := by
  simp only [State.gridSample]
  (repeat' split) <;> (repeat first
    | with_reducible exact hz | with_reducible apply keeps_gridLost | with_reducible apply keeps_setGrid
    | with_reducible apply keeps_gridPresent | refine Keeps.upd _ (h := ?_))

theorem keeps_returnRunsOut {z s : State} (hz : Keeps z s) : Keeps z (s.returnRunsOut) := by
  simp only [State.returnRunsOut]
  (repeat' split) <;> (repeat first
    | with_reducible exact hz | with_reducible apply keeps_gridPresent | refine Keeps.upd _ (h := ?_))

theorem keeps_setCeilings {z s : State} (hz : Keeps z s) (exported : Nat) : Keeps z (s.setCeilings exported) := by
  simp only [State.setCeilings]
  repeat first | with_reducible exact hz | refine Keeps.upd _ (h := ?_)

theorem keeps_chooseStance {z s : State} (hz : Keeps z s) (cap grants : Nat) :
    Keeps z (s.chooseStance cap grants) := by
  simp only [State.chooseStance]
  (repeat' split) <;> (repeat first
    | with_reducible exact hz | with_reducible apply keeps_setCeilings | refine Keeps.upd _ (h := ?_))

theorem keeps_issueGrant {z s : State} (hz : Keeps z s) (force : Bool) (b : BayIx) :
    Keeps z (s.issueGrant force b) := by
  simp only [State.issueGrant]
  (repeat' split) <;> (repeat first | with_reducible exact hz | with_reducible apply keeps_queueGrant)

theorem keeps_issueGrants {z s : State} (hz : Keeps z s) (held : List BayIx) (l : List BayIx) :
    Keeps z (State.issueGrants held l s) := by
  induction l generalizing s with
  | nil => simpa only [State.issueGrants] using hz
  | cons x xs ih =>
    simp only [State.issueGrants]
    (repeat first
      | with_reducible exact hz | with_reducible apply ih | with_reducible apply keeps_issueGrant)

theorem keeps_issueCap {z s : State} (hz : Keeps z s) (i : StringIx) : Keeps z (s.issueCap i) := by
  simp only [State.issueCap]
  (repeat' split) <;> (repeat first | with_reducible exact hz | with_reducible apply keeps_queueCap)

theorem keeps_issueCaps {z s : State} (hz : Keeps z s) (l : List StringIx) :
    Keeps z (State.issueCaps l s) := by
  induction l generalizing s with
  | nil => simpa only [State.issueCaps] using hz
  | cons x xs ih =>
    simp only [State.issueCaps]
    (repeat first
      | with_reducible exact hz | with_reducible apply ih | with_reducible apply keeps_issueCap)

theorem keeps_waitAll {z s : State} (hz : Keeps z s) (l : List BayIx) :
    Keeps z (State.waitAll l s) := by
  induction l generalizing s with
  | nil => simpa only [State.waitAll] using hz
  | cons x xs ih =>
    simp only [State.waitAll]
    (repeat first
      | with_reducible exact hz | with_reducible apply ih | with_reducible apply keeps_moveToWait)

theorem keeps_chargeAll {z s : State} (hz : Keeps z s) (l : List BayIx) :
    Keeps z (State.chargeAll l s) := by
  induction l generalizing s with
  | nil => simpa only [State.chargeAll] using hz
  | cons x xs ih =>
    simp only [State.chargeAll]
    (repeat first
      | with_reducible exact hz | with_reducible apply ih | with_reducible apply keeps_moveToCharging)

theorem keeps_recordPlan {z s : State} (hz : Keeps z s) (p : Plan) : Keeps z (s.recordPlan p) := by
  simp only [State.recordPlan]
  repeat first | with_reducible exact hz | refine Keeps.upd _ (h := ?_)

theorem keeps_roundInputs {z s : State} (hz : Keeps z s) : Keeps z (s.roundInputs) := by
  simp only [State.roundInputs]
  repeat first
    | with_reducible exact hz | with_reducible apply keeps_formAllowances | refine Keeps.upd _ (h := ?_)

theorem keeps_normalRound {z s0 : State} (hz : Keeps z s0) : Keeps z (s0.normalRound) := by
  simp only [State.normalRound]
  repeat first
    | with_reducible exact hz | with_reducible apply keeps_roundInputs | with_reducible apply keeps_recordPlan
    | with_reducible apply keeps_chooseStance | with_reducible apply keeps_chargeAll
    | with_reducible apply keeps_waitAll | with_reducible apply keeps_issueGrants
    | with_reducible apply keeps_issueCaps | with_reducible apply keeps_issueSetpoint
    | with_reducible apply keeps_askPage

theorem keeps_blindRound {z s : State} (hz : Keeps z s) : Keeps z (s.blindRound) := by
  simp only [State.blindRound]
  (repeat' split) <;> (repeat first
    | with_reducible exact hz | with_reducible apply keeps_issueGrants | with_reducible apply keeps_issueSetpoint
    | with_reducible apply keeps_askPage | refine Keeps.upd _ (h := ?_))

theorem keeps_oneRound {z s : State} (hz : Keeps z s) : Keeps z (s.oneRound) := by
  simp only [State.oneRound]
  (repeat' split) <;> (repeat first
    | with_reducible exact hz | with_reducible apply keeps_normalRound | with_reducible apply keeps_blindRound
    | refine Keeps.upd _ (h := ?_))

theorem keeps_rounds {z s : State} (hz : Keeps z s) (l : Nat) :
    Keeps z (State.rounds l s) := by
  induction l generalizing s with
  | zero => simpa only [State.rounds] using hz
  | succ n ih =>
    simp only [State.rounds]
    (repeat first
      | with_reducible exact hz | with_reducible apply ih | with_reducible apply keeps_oneRound)

theorem keeps_runRounds {z s : State} (hz : Keeps z s) : Keeps z (s.runRounds) := by
  simp only [State.runRounds]
  (repeat' split) <;> (repeat first
    | with_reducible exact hz | with_reducible apply keeps_rounds | refine Keeps.upd _ (h := ?_))

theorem keeps_blindBegins {z s : State} (hz : Keeps z s) : Keeps z (s.blindBegins) := by
  simp only [State.blindBegins]
  repeat first
    | with_reducible exact hz | with_reducible apply keeps_askRound | refine Keeps.upd _ (h := ?_)

theorem keeps_endInterval {z s : State} (hz : Keeps z s) : Keeps z s.endInterval :=
  { hz with residue := fun _ => by show 0 < 3600; decide }

theorem keeps_addImport {z s : State} (hz : Keeps z s) (power : Int) : Keeps z (s.addImport power) :=
  { hz with residue := fun _ => Nat.mod_lt _ (by decide) }

theorem keeps_testExceedance {z s : State} (hz : Keeps z s) : Keeps z (s.testExceedance) := by
  simp only [State.testExceedance]
  (repeat' split) <;> (repeat first | with_reducible exact hz | refine Keeps.upd _ (h := ?_))

theorem keeps_meterRestored {z s : State} (hz : Keeps z s) : Keeps z (s.meterRestored) := by
  simp only [State.meterRestored]
  (repeat' split) <;> (repeat first
    | with_reducible exact hz | with_reducible apply keeps_raise | refine Keeps.upd _ (h := ?_))

theorem keeps_keepSample {z s : State} (hz : Keeps z s) (m : SampleFrame) : Keeps z (s.keepSample m) := by
  simp only [State.keepSample]
  (repeat' split) <;> (repeat first | with_reducible exact hz | refine Keeps.upd _ (h := ?_))

theorem share_le (p f : Nat) (h : p ≤ f) : p * 1000 / f ≤ 1000 := by
  rcases Nat.eq_zero_or_pos f with rfl | hf
  · simp
  · exact Nat.div_le_of_le_mul (Nat.mul_le_mul_right _ h)

/-- R60: whatever the sample, the shares sum to 1000. -/
theorem sharesOf_sum (feeder canopy : Nat) (flow : Int) :
    (sharesOf feeder canopy flow).sun + (sharesOf feeder canopy flow).battery + (sharesOf feeder canopy flow).grid = 1000 := by
  show _ / _ + _ / _ + (1000 - _ / _ - _ / _) = 1000
  have key : min canopy feeder * 1000 / feeder + min flow.toNat (feeder - min canopy feeder) * 1000 / feeder ≤ 1000 := by
    refine Nat.div_add_div_le_add_div.trans ?_
    rw [← Nat.add_mul]
    refine share_le _ _ ?_
    omega
  omega

theorem keeps_shares {z s : State} (hz : Keeps z s) (x : Shares) (h : x.sun + x.battery + x.grid = 1000) :
    Keeps z { s with meter.shares := x } := { hz with shares := fun _ => h }

theorem keeps_acceptSample {z s : State} (hz : Keeps z s) (m : SampleFrame) : Keeps z (s.acceptSample m) := by
  unfold State.acceptSample
  dsimp only
  refine keeps_askRound (keeps_holdSample (keeps_gridSample (keeps_testExceedance (keeps_addImport ?_ _)) _) _)
  exact keeps_shares (keeps_meterRestored (keeps_keepSample hz m)) _ (sharesOf_sum _ _ _)

theorem keeps_takeSample {z s : State} (hz : Keeps z s) (m : SampleFrame) : Keeps z (s.takeSample m) := by
  simp only [State.takeSample]
  (repeat' split) <;> (repeat first
    | with_reducible exact hz | with_reducible apply keeps_acceptSample | refine Keeps.upd _ (h := ?_))

theorem keeps_meterFails {z s : State} (hz : Keeps z s) : Keeps z s.meterFails :=
  keeps_blindBegins (keeps_raise (s := { s with meter.state := .blind, meter.watch := none, meter.shares := blindShares })
    { hz with shares := fun _ => rfl } _)

theorem keeps_loseMeter {z s : State} (hz : Keeps z s) : Keeps z s.loseMeter := by
  unfold State.loseMeter
  split
  · exact keeps_meterFails hz
  · exact hz

theorem keeps_intervalTick {z s : State} (hz : Keeps z s) : Keeps z s.intervalTick := by
  unfold State.intervalTick
  split
  · exact keeps_endInterval hz
  · exact hz

theorem keeps_blindTick {z s : State} (hz : Keeps z s) : Keeps z (s.blindTick) := by
  simp only [State.blindTick]
  (repeat' split) <;> (repeat first | with_reducible exact hz | with_reducible apply keeps_askRound)

theorem keeps_addIncrement {z s : State} (hz : Keeps z s) (b : BayIx) (inc reading : Nat) :
    Keeps z (s.addIncrement b inc reading) := by
  simp only [State.addIncrement]
  (repeat' split) <;> (repeat first
    | with_reducible exact hz | with_reducible apply keeps_mapOpen | with_reducible apply keeps_endSession
    | refine Keeps.upd _ (h := ?_))

end Sys2Proof.Machine
end

