-- ==== Sys2Proof/Laws/KeepsLink.lean ====
section
/-!
SUPPORT. Keeps for the operations of the Bay Link Unit and the status page.
-/
namespace Sys2Proof.Machine

set_option Elab.async false

theorem keeps_reportUnnamed {z s : State} (hz : Keeps z s) (t : Target) : Keeps z (s.reportUnnamed t) := by
  simp only [State.reportUnnamed]
  (repeat' split) <;> (repeat first
    | with_reducible exact hz | with_reducible apply keeps_bayUnnamed | with_reducible apply keeps_stringDown
    | with_reducible apply keeps_converterDown | refine Keeps.upd _ (h := ?_))

theorem keeps_becomeUnnamed {z s : State} (hz : Keeps z s) (t : Target) : Keeps z (s.becomeUnnamed t) := by
  simp only [State.becomeUnnamed]
  repeat first
    | with_reducible exact hz | with_reducible apply keeps_setRec | with_reducible apply keeps_purge
    | with_reducible apply keeps_reportUnnamed | refine Keeps.upd _ (h := ?_)

theorem keeps_reEnrol {z s : State} (hz : Keeps z s) (t : Target) : Keeps z (s.reEnrol t) := by
  simp only [State.reEnrol]
  repeat first
    | with_reducible exact hz | with_reducible apply keeps_becomeUnnamed | with_reducible apply keeps_queueWho

theorem keeps_rollCall {z s : State} (hz : Keeps z s) (t : Target) : Keeps z (s.rollCall t) := by
  simp only [State.rollCall]
  repeat first
    | with_reducible exact hz | with_reducible apply keeps_setRec | with_reducible apply keeps_staleName
    | with_reducible apply keeps_becomeUnnamed | with_reducible apply keeps_queueWho | refine Keeps.upd _ (h := ?_)

theorem keeps_answerReturn {z s : State} (hz : Keeps z s) (t : Target) (r : Reply) :
    Keeps z (s.answerReturn t r) := by
  simp only [State.answerReturn]
  (repeat' split) <;> (repeat first
    | with_reducible exact hz | with_reducible apply keeps_answerAll | refine Keeps.upd _ (h := ?_))

theorem keeps_answerEnrolled {z s : State} (hz : Keeps z s) (t : Target) (k : EnrolKind) :
    Keeps z (s.answerEnrolled t k) := by
  simp only [State.answerEnrolled]
  repeat first
    | with_reducible exact hz | with_reducible apply keeps_answerAll | with_reducible apply keeps_answerReturn

theorem keeps_answerMismatch {z s : State} (hz : Keeps z s) (t : Target) : Keeps z (s.answerMismatch t) := by
  simp only [State.answerMismatch]
  repeat first
    | with_reducible exact hz | with_reducible apply keeps_answerAll | with_reducible apply keeps_answerReturn

theorem keeps_reportMismatch {z s : State} (hz : Keeps z s) (t : Target) : Keeps z (s.reportMismatch t) := by
  simp only [State.reportMismatch]
  (repeat' split) <;> (repeat first
    | with_reducible exact hz | with_reducible apply keeps_bayMismatch | with_reducible apply keeps_stringMismatch
    | with_reducible apply keeps_converterMismatch | refine Keeps.upd _ (h := ?_))

theorem keeps_classMismatch {z s : State} (hz : Keeps z s) (t : Target) : Keeps z (s.classMismatch t) := by
  simp only [State.classMismatch]
  repeat first
    | with_reducible exact hz | with_reducible apply keeps_setRec | with_reducible apply keeps_dropLink
    | with_reducible apply keeps_reportMismatch | with_reducible apply keeps_answerMismatch | refine Keeps.upd _ (h := ?_)

theorem keeps_reportReplaced {z s : State} (hz : Keeps z s) (t : Target) (k : EnrolKind) :
    Keeps z (s.reportReplaced t k) := by
  simp only [State.reportReplaced]
  (repeat' split) <;> (repeat first
    | with_reducible exact hz | with_reducible apply keeps_bayReplaced | refine Keeps.upd _ (h := ?_))

theorem keeps_whoAnswered {z s : State} (hz : Keeps z s) (t : Target) (p : List Byte) :
    Keeps z (s.whoAnswered t p) := by
  simp only [State.whoAnswered]
  (repeat' split) <;> (repeat first
    | with_reducible exact hz | with_reducible apply keeps_setRec | with_reducible apply keeps_reportReplaced
    | with_reducible apply keeps_queueName | with_reducible apply keeps_classMismatch)

theorem keeps_reportEnrolled {z s : State} (hz : Keeps z s) (t : Target) (k : EnrolKind) :
    Keeps z (s.reportEnrolled t k) := by
  simp only [State.reportEnrolled]
  (repeat' split) <;> (repeat first
    | with_reducible exact hz | with_reducible apply keeps_bayEnrolled | with_reducible apply keeps_stringEnrolled
    | with_reducible apply keeps_converterEnrolled | refine Keeps.upd _ (h := ?_))

theorem keeps_reSend {z s : State} (hz : Keeps z s) (t : Target) (k : EnrolKind) : Keeps z (s.reSend t k) := by
  simp only [State.reSend]
  (repeat' split) <;> (repeat first
    | with_reducible exact hz | with_reducible apply keeps_queueGrant | with_reducible apply keeps_queueLatch
    | with_reducible apply keeps_queueCap | with_reducible apply keeps_queueSetpoint | refine Keeps.upd _ (h := ?_))

theorem keeps_nameAcked {z s : State} (hz : Keeps z s) (t : Target) (tag : Byte) : Keeps z (s.nameAcked t tag) := by
  simp only [State.nameAcked]
  repeat first
    | with_reducible exact hz | with_reducible apply keeps_setRec | with_reducible apply keeps_reportEnrolled
    | with_reducible apply keeps_reSend | with_reducible apply keeps_answerEnrolled | refine Keeps.upd _ (h := ?_)

theorem keeps_takeReading {z s : State} (hz : Keeps z s) (b : BayIx) (reading : Nat) :
    Keeps z (s.takeReading b reading) := by
  simp only [State.takeReading]
  (repeat' split) <;> (repeat first
    | with_reducible exact hz | with_reducible apply keeps_setRec | with_reducible apply keeps_queueGrant
    | with_reducible apply keeps_addIncrement | refine Keeps.upd _ (h := ?_))

theorem keeps_requeue {z s : State} (hz : Keeps z s) (t : Target) (lane : Option Lane) (body : FrameBody) :
    Keeps z (s.requeue t lane body) := by
  simp only [State.requeue]
  (repeat' split) <;> (repeat first
    | with_reducible exact hz | with_reducible apply keeps_join | refine Keeps.upd _ (h := ?_))

theorem keeps_requeueLatch {z s : State} (hz : Keeps z s) (t : Target) : Keeps z (s.requeueLatch t) := by
  simp only [State.requeueLatch]
  (repeat' split) <;> (repeat first
    | with_reducible exact hz | with_reducible apply keeps_queueLatch | refine Keeps.upd _ (h := ?_))

theorem keeps_serveResend {z s : State} (hz : Keeps z s) (t : Target) : Keeps z (s.serveResend t) := by
  simp only [State.serveResend]
  (repeat' split) <;> (repeat first
    | with_reducible exact hz | with_reducible apply keeps_setRec | with_reducible apply keeps_join
    | with_reducible apply keeps_requeue | with_reducible apply keeps_requeueLatch | refine Keeps.upd _ (h := ?_))

theorem keeps_takeReport {z s : State} (hz : Keeps z s) (t : Target) (p : List Byte) :
    Keeps z (s.takeReport t p) := by
  simp only [State.takeReport]
  (repeat' split) <;> (repeat first
    | with_reducible exact hz | with_reducible apply keeps_takeReading | with_reducible apply keeps_pollReport
    | with_reducible apply keeps_setRec | with_reducible apply keeps_stringReport
    | with_reducible apply keeps_converterReport | refine Keeps.upd _ (h := ?_))

theorem keeps_pollAnswered {z s : State} (hz : Keeps z s) (t : Target) (p : List Byte) :
    Keeps z (s.pollAnswered t p) := by
  simp only [State.pollAnswered]
  (repeat' split) <;> (repeat first
    | with_reducible exact hz | with_reducible apply keeps_reEnrol | with_reducible apply keeps_setRec
    | with_reducible apply keeps_takeReport | with_reducible apply keeps_serveResend | refine Keeps.upd _ (h := ?_))

theorem keeps_parkAcked {z s : State} (hz : Keeps z s) (b : BayIx) : Keeps z (s.parkAcked b) := by
  simp only [State.parkAcked]
  (repeat' split) <;> (repeat first
    | with_reducible exact hz | with_reducible apply keeps_setRec | with_reducible apply keeps_bayParked
    | refine Keeps.upd _ (h := ?_))

theorem keeps_reportSilent {z s : State} (hz : Keeps z s) (t : Target) : Keeps z (s.reportSilent t) := by
  simp only [State.reportSilent]
  (repeat' split) <;> (repeat first
    | with_reducible exact hz | with_reducible apply keeps_baySilent | with_reducible apply keeps_stringDown
    | with_reducible apply keeps_converterDown | refine Keeps.upd _ (h := ?_))

theorem keeps_headPollTarget {z s : State} (hz : Keeps z s) (t : Target) : Keeps z (s.headPollTarget t) := by
  simp only [State.headPollTarget]
  (repeat' split) <;> (repeat first
    | with_reducible exact hz | with_reducible apply keeps_headPoll | refine Keeps.upd _ (h := ?_))

theorem keeps_pollMissed {z s : State} (hz : Keeps z s) (t : Target) : Keeps z (s.pollMissed t) := by
  simp only [State.pollMissed]
  (repeat' split) <;> (repeat first
    | with_reducible exact hz | with_reducible apply keeps_setRec | with_reducible apply keeps_reportSilent
    | with_reducible apply keeps_headPollTarget | refine Keeps.upd _ (h := ?_))

theorem keeps_reportFailed {z s : State} (hz : Keeps z s) (t : Target) (n : Nat) : Keeps z (s.reportFailed t n) := by
  simp only [State.reportFailed]
  (repeat' split) <;> (repeat first
    | with_reducible exact hz | with_reducible apply keeps_bayEnrolFailed | refine Keeps.upd _ (h := ?_))

theorem keeps_enrolMissed {z s : State} (hz : Keeps z s) (t : Target) : Keeps z (s.enrolMissed t) := by
  simp only [State.enrolMissed]
  (repeat' split) <;> (repeat first
    | with_reducible exact hz | with_reducible apply keeps_setRec | with_reducible apply keeps_reportFailed
    | with_reducible apply keeps_answerAll | refine Keeps.upd _ (h := ?_))

theorem keeps_enterResend {z s : State} (hz : Keeps z s) (t : Target) (k : LaneKind) (f : ResendSet → ResendSet) :
    Keeps z (s.enterResend t k f) := by
  simp only [State.enterResend]
  (repeat' split) <;> (repeat first
    | with_reducible exact hz | with_reducible apply keeps_setRec | refine Keeps.upd _ (h := ?_))

theorem keeps_exchangeMissed {z s : State} (hz : Keeps z s) (x : Exchange) : Keeps z (s.exchangeMissed x) := by
  simp only [State.exchangeMissed]
  (repeat' split) <;> (repeat first
    | with_reducible exact hz | with_reducible apply keeps_pollMissed | with_reducible apply keeps_enrolMissed
    | with_reducible apply keeps_enterResend | with_reducible apply keeps_release | refine Keeps.upd _ (h := ?_))

theorem keeps_attemptFails {z s : State} (hz : Keeps z s) (x : Exchange) : Keeps z (s.attemptFails x) := by
  simp only [State.attemptFails]
  (repeat' split) <;> (repeat first
    | with_reducible exact hz | with_reducible apply keeps_exchangeMissed | refine Keeps.upd _ (h := ?_))

theorem keeps_answered {z s : State} (hz : Keeps z s) (x : Exchange) (t : Target) (p : List Byte) :
    Keeps z (s.answered x t p) := by
  simp only [State.answered]
  (repeat' split) <;> (repeat first
    | with_reducible exact hz | with_reducible apply keeps_pollAnswered | with_reducible apply keeps_whoAnswered
    | with_reducible apply keeps_nameAcked | with_reducible apply keeps_parkAcked
    | with_reducible apply keeps_release | refine Keeps.upd _ (h := ?_))

theorem keeps_takeAnswer {z s : State} (hz : Keeps z s) (a : AnswerFrame) : Keeps z (s.takeAnswer a) := by
  simp only [State.takeAnswer]
  (repeat' split) <;> (repeat first
    | with_reducible exact hz | with_reducible apply keeps_answered | with_reducible apply keeps_attemptFails
    | refine Keeps.upd _ (h := ?_))

theorem keeps_answerTimesOut {z s : State} (hz : Keeps z s) : Keeps z (s.answerTimesOut) := by
  simp only [State.answerTimesOut]
  (repeat' split) <;> (repeat first
    | with_reducible exact hz | with_reducible apply keeps_attemptFails | refine Keeps.upd _ (h := ?_))

theorem keeps_answerBreaks {z s : State} (hz : Keeps z s) : Keeps z (s.answerBreaks) := by
  simp only [State.answerBreaks]
  (repeat' split) <;> (repeat first
    | with_reducible exact hz | with_reducible apply keeps_attemptFails | refine Keeps.upd _ (h := ?_))

theorem keeps_frameLeaves {z s : State} (hz : Keeps z s) : Keeps z (s.frameLeaves) := by
  simp only [State.frameLeaves]
  (repeat' split) <;> (repeat first
    | with_reducible exact hz | with_reducible apply keeps_setRec | refine Keeps.upd _ (h := ?_))

theorem keeps_windowEnds {z s : State} (hz : Keeps z s) : Keeps z (s.windowEnds) := by
  simp only [State.windowEnds]
  (repeat' split) <;> (repeat first | with_reducible exact hz | refine Keeps.upd _ (h := ?_))

theorem keeps_cyclePoll {z s : State} (hz : Keeps z s) (t : Target) : Keeps z (s.cyclePoll t) := by
  simp only [State.cyclePoll]
  (repeat' split) <;> (repeat first
    | with_reducible exact hz | with_reducible apply keeps_placeHead | with_reducible apply keeps_queuePoll
    | refine Keeps.upd _ (h := ?_))

theorem keeps_cycleRecord {z s : State} (hz : Keeps z s) (t : Target) : Keeps z (s.cycleRecord t) := by
  simp only [State.cycleRecord]
  (repeat' split) <;> (repeat first
    | with_reducible exact hz | with_reducible apply keeps_cyclePoll | with_reducible apply keeps_queuePoll
    | with_reducible apply keeps_queueWho | refine Keeps.upd _ (h := ?_))

theorem keeps_cycleRecords {z s : State} (hz : Keeps z s) (l : List Target) :
    Keeps z (State.cycleRecords l s) := by
  induction l generalizing s with
  | nil => simpa only [State.cycleRecords] using hz
  | cons x xs ih =>
    simp only [State.cycleRecords]
    (repeat first
      | with_reducible exact hz | with_reducible apply ih | with_reducible apply keeps_cycleRecord)

theorem keeps_startCycle {z s : State} (hz : Keeps z s) : Keeps z (s.startCycle) := by
  simp only [State.startCycle]
  (repeat' split) <;> (repeat first
    | with_reducible exact hz | with_reducible apply keeps_cycleRecords | refine Keeps.upd _ (h := ?_))

theorem bit0_succ (g : Word) : (g + 1).getLsbD 0 = !g.getLsbD 0 := by
  rw [BitVec.getLsbD_add (by decide)]
  simp

/-- A rewrite starts only when none is in progress (R159). -/
theorem keeps_startRewrite {z s : State} (hz : Keeps z s) (idle : s.xchg.rewriting = false) : Keeps z s.startRewrite := by
  unfold State.startRewrite
  refine keeps_writeWords ?_ _ _
  refine { hz with count := fun h => ?_ }
  have k := hz.count h
  unfold State.countOdd at *
  show (s.xchg.generation + 1).getLsbD 0 = true
  rw [bit0_succ, k, idle]
  rfl

theorem keeps_endRewrite {z s : State} (hz : Keeps z s) : Keeps z s.endRewrite := by
  unfold State.endRewrite
  split
  · next busy =>
    have k : Keeps z { s with xchg.rewriting := false, xchg.generation := s.xchg.generation + 1 } := by
      refine { hz with count := fun h => ?_ }
      have k := hz.count h
      unfold State.countOdd at *
      show (s.xchg.generation + 1).getLsbD 0 = false
      rw [bit0_succ, k, busy]
      rfl
    dsimp only
    split
    · exact keeps_startRewrite (Keeps.upd _ (h := keeps_writeWords k _ _)) rfl
    · exact keeps_writeWords k _ _
  · exact hz

theorem keeps_servePage {z s : State} (hz : Keeps z s) : Keeps z s.servePage := by
  unfold State.servePage
  dsimp only
  have k : Keeps z { s with pageAsks := 0 } := Keeps.upd _ (h := hz)
  split
  · exact k
  split
  · exact Keeps.upd _ (h := k)
  · next h =>
    have k2 := keeps_startRewrite k (by simpa using h)
    split
    · exact Keeps.upd _ (h := k2)
    · exact k2

end Sys2Proof.Machine
end

