-- ==== Sys2Proof/Laws/KeepsRequests.lean ====
section
/-!
SUPPORT. Keeps for the operations of the requests.
-/
namespace Sys2Proof.Machine

set_option Elab.async false

theorem keeps_reply {z s : State} (hz : Keeps z s) (q : Taken) (place : Option (Fin 8)) (r : Reply) :
    Keeps z (s.reply q place r) := by
  simp only [State.reply]
  (repeat' split) <;> (repeat first
    | with_reducible exact hz | with_reducible apply keeps_answerSlot | with_reducible apply keeps_answerPlace
    | refine Keeps.upd _ (h := ?_))

theorem keeps_clearFree {z s : State} (hz : Keeps z s) : Keeps z (s.clearFree) := by
  simp only [State.clearFree]
  (repeat' split) <;> (repeat first | with_reducible exact hz | refine Keeps.upd _ (h := ?_))

theorem keeps_floorChanged {z s : State} (hz : Keeps z s) (old : Nat) : Keeps z (s.floorChanged old) := by
  simp only [State.floorChanged]
  (repeat' split) <;> (repeat first
    | with_reducible exact hz | with_reducible apply keeps_testReserve | with_reducible apply keeps_deriveCondition)

theorem keeps_limitsChanged {z s : State} (hz : Keeps z s) (old : SiteSettings) : Keeps z (s.limitsChanged old) := by
  simp only [State.limitsChanged]
  (repeat' split) <;> (repeat first | with_reducible exact hz | with_reducible apply keeps_formAndTrim)

theorem keeps_fixedChanged {z s : State} (hz : Keeps z s) : Keeps z (s.fixedChanged) := by
  simp only [State.fixedChanged]
  (repeat' split) <;> (repeat first | with_reducible exact hz | refine Keeps.upd _ (h := ?_))

theorem keeps_acceptSite {z s : State} (hz : Keeps z s) (t : SiteSettings) : Keeps z (s.acceptSite t) := by
  simp only [State.acceptSite]
  repeat first
    | with_reducible exact hz | with_reducible apply keeps_reformLimit | with_reducible apply keeps_floorChanged
    | with_reducible apply keeps_limitsChanged | with_reducible apply keeps_clearFree
    | with_reducible apply keeps_fixedChanged | refine Keeps.upd _ (h := ?_)

theorem keeps_serveSetSite {z s : State} (hz : Keeps z s) (q : Taken) : Keeps z (s.serveSetSite q) := by
  simp only [State.serveSetSite]
  (repeat' split) <;> (repeat first
    | with_reducible exact hz | with_reducible apply keeps_reply | with_reducible apply keeps_acceptSite)

theorem keeps_setClock {z s : State} (hz : Keeps z s) (clock : Nat) (offset : Int) (hc : clock ≤ 4294967295) :
    Keeps z (s.setClock clock offset) := by
  unfold State.setClock
  dsimp only
  have k : Keeps z { s with xchg.clock := clock, xchg.offset := offset } := { hz with clock := fun _ => hc }
  split
  · exact k
  · exact keeps_endInterval k

theorem keeps_serveSetClock {z s : State} (hz : Keeps z s) (q : Taken) : Keeps z (s.serveSetClock q) := by
  unfold State.serveSetClock
  exact keeps_reply (keeps_setClock hz _ _ (Nat.le_of_lt_succ (bodyDWord q.body 0).isLt)) _ _ _

theorem keeps_serveAuthorise {z s : State} (hz : Keeps z s) (q : Taken) (b : BayIx) : Keeps z (s.serveAuthorise q b) := by
  unfold State.serveAuthorise
  split <;> try exact keeps_reply hz _ _ _
  dsimp only
  have k := keeps_tryOpen hz b .account (some (bodyAccount q.body 1)) none
    (if (bodyDWord q.body 9).toNat = 0 then none else some (bodyDWord q.body 9).toNat)
  revert k
  generalize s.tryOpen b .account _ _ _ = r
  intro k
  split <;> exact keeps_reply k _ _ _

theorem keeps_serveStop {z s : State} (hz : Keeps z s) (q : Taken) (place : Option (Fin 8)) (b : BayIx) :
    Keeps z (s.serveStop q place b) := by
  simp only [State.serveStop]
  (repeat' split) <;> (repeat first
    | with_reducible exact hz | with_reducible apply keeps_endSession | with_reducible apply keeps_reply
    | refine Keeps.upd _ (h := ?_))

theorem keeps_servePark {z s : State} (hz : Keeps z s) (q : Taken) (place : Option (Fin 8)) (b : BayIx) :
    Keeps z (s.servePark q place b) := by
  simp only [State.servePark]
  (repeat' split) <;> (repeat first
    | with_reducible exact hz | with_reducible apply keeps_reply | with_reducible apply keeps_setBay
    | with_reducible apply keeps_askPark | refine Keeps.upd _ (h := ?_))

theorem keeps_serveReturn {z s : State} (hz : Keeps z s) (q : Taken) (place : Option (Fin 8)) (b : BayIx) :
    Keeps z (s.serveReturn q place b) := by
  simp only [State.serveReturn]
  (repeat' split) <;> (repeat first
    | with_reducible exact hz | with_reducible apply keeps_reEnrol | with_reducible apply keeps_reply)

theorem keeps_serveEnrol {z s : State} (hz : Keeps z s) (q : Taken) (place : Option (Fin 8)) (t : Target) :
    Keeps z (s.serveEnrol q place t) := by
  simp only [State.serveEnrol]
  (repeat' split) <;> (repeat first
    | with_reducible exact hz | with_reducible apply keeps_reply | with_reducible apply keeps_rollCall)

theorem keeps_servePost {z s : State} (hz : Keeps z s) (q : Taken) (v : Voucher) : Keeps z (s.servePost q v) := by
  unfold State.servePost
  split
  · exact keeps_reply hz _ _ _
  split
  · exact keeps_reply hz _ _ _
  · next h =>
    refine keeps_reply (hz.setVouchers _ (fun _ => ?_)) _ _ _
    rw [List.length_append]
    exact Nat.lt_of_not_le h

theorem keeps_serveWithdraw {z s : State} (hz : Keeps z s) (q : Taken) : Keeps z (s.serveWithdraw q) := by
  unfold State.serveWithdraw
  dsimp only
  split
  · exact keeps_reply hz _ _ _
  split
  · exact keeps_reply hz _ _ _
  · exact keeps_reply (hz.setVouchers _ (fun h => (List.length_filter_le _ _).trans h)) _ _ _

theorem keeps_serveTariff {z s : State} (hz : Keeps z s) (q : Taken) (place : Option (Fin 8)) :
    Keeps z (s.serveTariff q place) := by
  simp only [State.serveTariff]
  repeat first | with_reducible exact hz | with_reducible apply keeps_askWrite

theorem keeps_serveLock {z s : State} (hz : Keeps z s) (place : Option (Fin 8)) : Keeps z (s.serveLock place) := by
  simp only [State.serveLock]
  repeat first | with_reducible exact hz | with_reducible apply keeps_askWrite

theorem keeps_serveUnlock {z s : State} (hz : Keeps z s) (q : Taken) (place : Option (Fin 8)) :
    Keeps z (s.serveUnlock q place) := by
  simp only [State.serveUnlock]
  (repeat' split) <;> (repeat first
    | with_reducible exact hz | with_reducible apply keeps_reply | with_reducible apply keeps_askWrite)

theorem keeps_giveNumber {z s : State} (hz : Keeps z s) (k : NumberKind) (n : Nat) : Keeps z (s.giveNumber k n) := by
  simp only [State.giveNumber]
  repeat first
    | with_reducible exact hz | with_reducible apply keeps_setNumbers | refine Keeps.upd _ (h := ?_)

theorem keeps_acceptCounters {z s : State} (hz : Keeps z s) (session receipt : Nat) :
    Keeps z (s.acceptCounters session receipt) := by
  simp only [State.acceptCounters]
  repeat first
    | with_reducible exact hz | with_reducible apply keeps_giveNumber | refine Keeps.upd _ (h := ?_)

theorem keeps_serveCounters {z s : State} (hz : Keeps z s) (q : Taken) : Keeps z (s.serveCounters q) := by
  simp only [State.serveCounters]
  repeat first
    | with_reducible exact hz | with_reducible apply keeps_acceptCounters | with_reducible apply keeps_reply

theorem keeps_serveGridHold {z s : State} (hz : Keeps z s) (q : Taken) (place : Option (Fin 8)) :
    Keeps z (s.serveGridHold q place) := by
  simp only [State.serveGridHold]
  (repeat' split) <;> (repeat first
    | with_reducible exact hz | with_reducible apply keeps_startHold | refine Keeps.upd _ (h := ?_))

theorem keeps_dropWrite {z s : State} (hz : Keeps z s) (p : Fin 8) : Keeps z (s.dropWrite p) := by
  simp only [State.dropWrite]
  repeat first | with_reducible exact hz | refine Keeps.upd _ (h := ?_)

theorem keeps_withdrawParkBay {z s : State} (hz : Keeps z s) (b : BayIx) : Keeps z (s.withdrawParkBay b) := by
  simp only [State.withdrawParkBay]
  repeat first
    | with_reducible exact hz | with_reducible apply keeps_setBay | with_reducible apply keeps_withdrawPark
    | refine Keeps.upd _ (h := ?_)

theorem keeps_withdraw {z s : State} (hz : Keeps z s) (p : Fin 8) (h : Held) : Keeps z (s.withdraw p h) := by
  unfold State.withdraw
  (repeat' split) <;>
    first | exact hz | exact keeps_withdrawParkBay hz _ | exact keeps_cancelHold hz | exact keeps_dropWrite hz _

theorem keeps_serveCancel {z s : State} (hz : Keeps z s) (q : Taken) : Keeps z (s.serveCancel q) := by
  simp only [State.serveCancel]
  (repeat' split) <;> (repeat first
    | with_reducible exact hz | with_reducible apply keeps_reply | with_reducible apply keeps_withdraw
    | with_reducible apply keeps_answerPlace | refine Keeps.upd _ (h := ?_))

theorem keeps_forBay {z s : State} (hz : Keeps z s) (q : Taken) (f : BayIx → State) (hf : ∀ b, Keeps z (f b)) :
    Keeps z (s.forBay q f) := by
  unfold State.forBay
  split
  · exact hz
  · exact hf _

theorem keeps_serve {z s : State} (hz : Keeps z s) (k : Kind) (q : Taken) (place : Option (Fin 8)) :
    Keeps z (s.serve k q place) := by
  cases k
  case setSite => exact keeps_serveSetSite hz q
  case setClock => exact keeps_serveSetClock hz q
  case authorise => exact keeps_forBay hz q _ (fun b => keeps_serveAuthorise hz q b)
  case stopSession => exact keeps_forBay hz q _ (fun b => keeps_serveStop hz q place b)
  case parkBay => exact keeps_forBay hz q _ (fun b => keeps_servePark hz q place b)
  case returnBay => exact keeps_forBay hz q _ (fun b => keeps_serveReturn hz q place b)
  case enrolBay =>
    unfold State.serve
    dsimp only
    split
    · exact hz
    · exact keeps_serveEnrol hz q place _
  case postVoucher =>
    unfold State.serve
    dsimp only
    split
    · exact hz
    · exact keeps_servePost hz q _
  case withdrawVoucher => exact keeps_serveWithdraw hz q
  case setTariff => exact keeps_serveTariff hz q place
  case lockTariff => exact keeps_serveLock hz place
  case unlockTariff => exact keeps_serveUnlock hz q place
  case setCounters => exact keeps_serveCounters hz q
  case gridHold => exact keeps_serveGridHold hz q place
  case cancel => exact keeps_serveCancel hz q

theorem keeps_carry {z s : State} (hz : Keeps z s) (q : Taken) (place : Option (Fin 8)) :
    Keeps z (s.carry q place) := by
  simp only [State.carry]
  (repeat' split) <;> (repeat first
    | with_reducible exact hz | with_reducible apply keeps_reply | with_reducible apply keeps_serve
    | refine Keeps.upd _ (h := ?_))

theorem keeps_markTaken {z s : State} (hz : Keeps z s) (i : Fin 48) : Keeps z (s.markTaken i) := by
  simp only [State.markTaken]
  repeat first
    | with_reducible exact hz | with_reducible apply keeps_writeWords | refine Keeps.upd _ (h := ?_)

theorem keeps_takeSlot {z s : State} (hz : Keeps z s) (i : Fin 48) : Keeps z (s.takeSlot i) := by
  simp only [State.takeSlot]
  (repeat' split) <;> (repeat first
    | with_reducible exact hz | with_reducible apply keeps_markTaken | with_reducible apply keeps_setPlace
    | with_reducible apply keeps_carry | refine Keeps.upd _ (h := ?_))

theorem keeps_visitSlot {z s : State} (hz : Keeps z s) (i : Fin 48) : Keeps z (s.visitSlot i) := by
  simp only [State.visitSlot]
  (repeat' split) <;> (repeat first | with_reducible exact hz | with_reducible apply keeps_takeSlot)

theorem keeps_fillSlot {z s : State} (hz : Keeps z s) (i : Fin 48) (k : Kind) (ticket : Word) (body : List Word) :
    Keeps z (s.fillSlot i k ticket body) := by
  simp only [State.fillSlot]
  repeat first | with_reducible exact hz | with_reducible apply keeps_writeWords

end Sys2Proof.Machine
end

