-- ==== Sys2Proof/Laws/KeepsSite.lean ====
section
/-!
SUPPORT. Keeps for the operations of the store completions, RUN, site restart, sweeps and the commands.
-/
namespace Sys2Proof.Machine

set_option Elab.async false

theorem keeps_blockPassed {z s : State} (hz : Keeps z s) (k : NumberKind) (base : Nat) :
    Keeps z (s.blockPassed k base) := by
  simp only [State.blockPassed]
  (repeat' split) <;> (repeat first
    | with_reducible exact hz | with_reducible apply keeps_setNumbers | with_reducible apply keeps_compose
    | refine Keeps.upd _ (h := ?_))

theorem keeps_writePassed {z s : State} (hz : Keeps z s) (a : ActiveWrite) : Keeps z (s.writePassed a) := by
  simp only [State.writePassed]
  (repeat' split) <;> (repeat first
    | with_reducible exact hz | with_reducible apply keeps_answerWrite | with_reducible apply keeps_askPage
    | with_reducible apply keeps_blockPassed | refine Keeps.upd _ (h := ?_))

theorem keeps_writeFailed {z s : State} (hz : Keeps z s) (a : ActiveWrite) : Keeps z (s.writeFailed a) := by
  simp only [State.writeFailed]
  (repeat' split) <;> (repeat first
    | with_reducible exact hz | with_reducible apply keeps_answerWrite | with_reducible apply keeps_raise
    | refine Keeps.upd _ (h := ?_))

theorem keeps_writeCompletes {z s : State} (hz : Keeps z s) (r : StoreResult) : Keeps z (s.writeCompletes r) := by
  simp only [State.writeCompletes]
  (repeat' split) <;> (repeat first
    | with_reducible exact hz | with_reducible apply keeps_writePassed | with_reducible apply keeps_writeFailed
    | refine Keeps.upd _ (h := ?_))

theorem keeps_cutWrite {z s : State} (hz : Keeps z s) : Keeps z (s.cutWrite) := by
  simp only [State.cutWrite]
  (repeat' split) <;> (repeat first | with_reducible exact hz | refine Keeps.upd _ (h := ?_))

theorem keeps_enterRun {z s : State} (hz : Keeps z s) : Keeps z (s.enterRun) := by
  simp only [State.enterRun]
  repeat first
    | with_reducible exact hz | with_reducible apply keeps_queueBroadcast | with_reducible apply keeps_askPage
    | refine Keeps.upd _ (h := ?_)

theorem keeps_commandRun {z s : State} (hz : Keeps z s) : Keeps z (s.commandRun) := by
  simp only [State.commandRun]
  (repeat' split) <;> (repeat first
    | with_reducible exact hz | with_reducible apply keeps_enterRun | refine Keeps.upd _ (h := ?_))

theorem keeps_takeFixed {z s : State} (hz : Keeps z s) : Keeps z (s.takeFixed) := by
  simp only [State.takeFixed]
  repeat first | with_reducible exact hz | refine Keeps.upd _ (h := ?_)

theorem keeps_abortHeld {z s : State} (hz : Keeps z s) : Keeps z (s.abortHeld) := by
  simp only [State.abortHeld]
  repeat first
    | with_reducible exact hz | with_reducible apply keeps_answerPlaces | refine Keeps.upd _ (h := ?_)

theorem keeps_restartClose {z s : State} (hz : Keeps z s) (b : BayIx) : Keeps z (s.restartClose b) := by
  simp only [State.restartClose]
  (repeat' split) <;> (repeat first
    | with_reducible exact hz | with_reducible apply keeps_recordCause | with_reducible apply keeps_siteRestart
    | with_reducible apply keeps_allotLeave | with_reducible apply keeps_closeSession)

theorem keeps_restartCloses {z s : State} (hz : Keeps z s) (l : List BayIx) :
    Keeps z (State.restartCloses l s) := by
  induction l generalizing s with
  | nil => simpa only [State.restartCloses] using hz
  | cons x xs ih =>
    simp only [State.restartCloses]
    (repeat first
      | with_reducible exact hz | with_reducible apply ih | with_reducible apply keeps_restartClose)

theorem keeps_renewBay {z s : State} (hz : Keeps z s) (b : BayIx) : Keeps z (s.renewBay b) := by
  simp only [State.renewBay]
  repeat first
    | with_reducible exact hz | with_reducible apply keeps_setBayState | with_reducible apply keeps_setBay
    | with_reducible apply keeps_release | refine Keeps.upd _ (h := ?_)

theorem keeps_renewBays {z s : State} (hz : Keeps z s) (l : List BayIx) :
    Keeps z (State.renewBays l s) := by
  induction l generalizing s with
  | nil => simpa only [State.renewBays] using hz
  | cons x xs ih =>
    simp only [State.renewBays]
    (repeat first
      | with_reducible exact hz | with_reducible apply ih | with_reducible apply keeps_renewBay)

theorem keeps_restartSessions {z s : State} (hz : Keeps z s) : Keeps z (s.restartSessions) := by
  simp only [State.restartSessions]
  repeat first
    | with_reducible exact hz | with_reducible apply keeps_renewBays | with_reducible apply keeps_restartCloses

theorem keeps_restartAllot {z s : State} (hz : Keeps z s) (ending : RunState) : Keeps z (s.restartAllot ending) := by
  simp only [State.restartAllot]
  (repeat' split) <;> (repeat first
    | with_reducible exact hz | with_reducible apply keeps_restartHold | refine Keeps.upd _ (h := ?_))

theorem keeps_restartLink {z s : State} (hz : Keeps z s) : Keeps z s.restartLink := by
  unfold State.restartLink
  exact hz.setLink _ List.Pairwise.nil List.Pairwise.nil rfl

theorem keeps_restartStore {z s : State} (hz : Keeps z s) : Keeps z (s.restartStore) := by
  simp only [State.restartStore]
  repeat first
    | with_reducible exact hz | with_reducible apply keeps_deriveCondition | refine Keeps.upd _ (h := ?_)

theorem keeps_restartEnds {z s : State} (hz : Keeps z s) (ending : RunState) : Keeps z (s.restartEnds ending) := by
  simp only [State.restartEnds]
  (repeat' split) <;> (repeat first
    | with_reducible exact hz | with_reducible apply keeps_queueBroadcast | with_reducible apply keeps_askPage
    | refine Keeps.upd _ (h := ?_))

theorem keeps_siteRestart {z s : State} (hz : Keeps z s) (ending : RunState) : Keeps z (s.siteRestart ending) := by
  simp only [State.siteRestart]
  repeat first
    | with_reducible exact hz | with_reducible apply keeps_takeFixed | with_reducible apply keeps_abortHeld
    | with_reducible apply keeps_restartSessions | with_reducible apply keeps_restartAllot
    | with_reducible apply keeps_restartLink | with_reducible apply keeps_restartStore
    | with_reducible apply keeps_restartEnds

theorem keeps_dueRestart {z s : State} (hz : Keeps z s) : Keeps z (s.dueRestart) := by
  simp only [State.dueRestart]
  (repeat' split) <;> (repeat first
    | with_reducible exact hz | with_reducible apply keeps_siteRestart | refine Keeps.upd _ (h := ?_))

theorem keeps_loadNumbers {z s : State} (hz : Keeps z s) (k : NumberKind) (base : Nat) (damaged : Bool) :
    Keeps z (s.loadNumbers k base damaged) := by
  simp only [State.loadNumbers]
  (repeat' split) <;> (repeat first
    | with_reducible exact hz | with_reducible apply keeps_setNumbers | with_reducible apply keeps_askBlock)

theorem keeps_loadStore {z s : State} (hz : Keeps z s) : Keeps z (s.loadStore) := by
  simp only [State.loadStore]
  (repeat' split) <;> (repeat first
    | with_reducible exact hz | with_reducible apply keeps_loadNumbers | with_reducible apply keeps_raise
    | refine Keeps.upd _ (h := ?_))

theorem keeps_settleUnits {z s : State} (hz : Keeps z s) : Keeps z (s.settleUnits) := by
  simp only [State.settleUnits]
  repeat first
    | with_reducible exact hz | with_reducible apply keeps_runRounds | with_reducible apply keeps_serveStore

theorem keeps_settle {z s : State} (hz : Keeps z s) : Keeps z (s.settle) := by
  simp only [State.settle]
  repeat first
    | with_reducible exact hz | with_reducible apply keeps_settleUnits | with_reducible apply keeps_servePage

theorem keeps_arrive {z s : State} (hz : Keeps z s) (l : List SweepEvent) :
    Keeps z (State.arrive l s).1 := by
  induction l generalizing s with
  | nil => simpa only [State.arrive] using hz
  | cons x xs ih =>
    simp only [State.arrive]
    (repeat' split) <;> (repeat first
      | with_reducible exact hz | with_reducible apply ih | with_reducible apply keeps_hostWords
      | refine Keeps.upd _ (h := ?_))

theorem keeps_sweepSlots {z s : State} (hz : Keeps z s) (arrivals : List SweepArrival) (l : List (Nat × Fin 48)) :
    Keeps z (State.sweepSlots arrivals l s).1 := by
  induction l generalizing s with
  | nil => simpa only [State.sweepSlots] using hz
  | cons x xs ih =>
    simp only [State.sweepSlots]
    (repeat' split) <;> (repeat first
      | with_reducible exact hz | with_reducible apply ih | with_reducible apply keeps_arrive
      | with_reducible apply keeps_visitSlot | with_reducible apply keeps_settleUnits
      | refine Keeps.upd _ (h := ?_))

theorem keeps_sweepOnce {z s : State} (hz : Keeps z s) (arrivals : List SweepArrival) :
    Keeps z (s.sweepOnce arrivals).1 := by
  simp only [State.sweepOnce]
  repeat first
    | with_reducible exact hz | with_reducible apply keeps_sweepReceipts | with_reducible apply keeps_settleUnits
    | with_reducible apply keeps_sweepSlots

theorem keeps_takeCommand {z s : State} (hz : Keeps z s) (c : Option SiteCommand) : Keeps z (s.takeCommand c) := by
  simp only [State.takeCommand]
  (repeat' split) <;> (repeat first
    | with_reducible exact hz | with_reducible apply keeps_commandRun | with_reducible apply keeps_siteRestart
    | refine Keeps.upd _ (h := ?_))

theorem keeps_followSweep {z s : State} (hz : Keeps z s) : Keeps z (s.followSweep) := by
  simp only [State.followSweep]
  (repeat' split) <;> (repeat first
    | with_reducible exact hz | with_reducible apply keeps_sweepOnce | refine Keeps.upd _ (h := ?_))

theorem keeps_askSweep {z s : State} (hz : Keeps z s) (arrivals : List SweepArrival) :
    Keeps z (s.askSweep arrivals) := by
  simp only [State.askSweep]
  (repeat' split) <;> (repeat first
    | with_reducible exact hz | with_reducible apply keeps_sweepOnce | with_reducible apply keeps_takeCommand
    | with_reducible apply keeps_followSweep | refine Keeps.upd _ (h := ?_))

theorem keeps_deliver {z s : State} (hz : Keeps z s) (slot : Fin 48) (k : Kind) (ticket : Word) (body : List Word) :
    Keeps z (s.deliver slot k ticket body) := by
  simp only [State.deliver]
  repeat first
    | with_reducible exact hz | with_reducible apply keeps_fillSlot | with_reducible apply keeps_visitSlot

theorem keeps_timerSweep {z s : State} (hz : Keeps z s) (arrivals : List SweepArrival) :
    Keeps z (s.timerSweep arrivals) := by
  simp only [State.timerSweep]
  (repeat' split) <;> (repeat first | with_reducible exact hz | with_reducible apply keeps_askSweep)

theorem keeps_deliverTable {z s : State} (hz : Keeps z s) (slot : Fin 48) (k : Kind) (ticket offset : Word) (table : List Word) :
    Keeps z (s.deliverTable slot k ticket offset table) := by
  simp only [State.deliverTable, State.hostTable]
  repeat first
    | with_reducible exact hz | with_reducible apply keeps_writeWords | with_reducible apply keeps_deliver

theorem keeps_abortSample {z s : State} (hz : Keeps z s) : Keeps z (s.abortSample) := by
  simp only [State.abortSample]
  repeat first | with_reducible exact hz | refine Keeps.upd _ (h := ?_)

theorem keeps_endCooldown {z s : State} (hz : Keeps z s) (b : BayIx) : Keeps z (s.endCooldown b) := by
  simp only [State.endCooldown]
  (repeat' split) <;> (repeat first
    | with_reducible exact hz | with_reducible apply keeps_setBay | with_reducible apply keeps_queueShow
    | refine Keeps.upd _ (h := ?_))

theorem keeps_expireVouchers {z s : State} (hz : Keeps z s) : Keeps z s.expireVouchers :=
  hz.setVouchers _ (fun h => (List.length_filter_le _ _).trans h)

theorem keeps_lingerExpires {z s : State} (hz : Keeps z s) : Keeps z (s.lingerExpires) := by
  simp only [State.lingerExpires]
  (repeat' split) <;> (repeat first
    | with_reducible exact hz | with_reducible apply keeps_raise | refine Keeps.upd _ (h := ?_))

theorem keeps_pageTick {z s : State} (hz : Keeps z s) : Keeps z (s.pageTick) := by
  simp only [State.pageTick]
  (repeat' split) <;> (repeat first | with_reducible exact hz | with_reducible apply keeps_askPage)

theorem keeps_countStray {z s : State} (hz : Keeps z s) : Keeps z (s.countStray) := by
  simp only [State.countStray]
  repeat first | with_reducible exact hz | refine Keeps.upd _ (h := ?_)

end Sys2Proof.Machine
end

