-- ==== Sys2Proof/Laws/Settle.lean ====
section
/-!
SUPPORT. What the end of a command does to a state in which nothing waits, and how a command's effect reaches a state
outside reset: the lemmas that a proof about one command starts with.
-/
namespace Sys2Proof.Machine

set_option Elab.async false

theorem runRounds_of_none {s : State} (h : s.roundsAsked = 0) : s.runRounds = s := by
  have e : ({ s with roundsAsked := 0 } : State) = s := by rw [← h]
  unfold State.runRounds
  rw [e, h]
  split <;> rfl

theorem beginWrites_of_wait {s : State} (h : s.price.active ≠ none ∨ s.price.queue = []) (n : Nat) :
    State.beginWrites n s = s := by
  cases n with
  | zero => rfl
  | succ n =>
    unfold State.beginWrites
    split
    · next ha hq => rcases h with h | h
                    · exact absurd ha h
                    · rw [h] at hq; cases hq
    · rfl

theorem serveStore_of_wait {s : State} (h : s.price.active ≠ none ∨ s.price.queue = []) : s.serveStore = s :=
  beginWrites_of_wait h _

theorem servePage_of_none {s : State} (h : s.pageAsks = 0) : s.servePage = s := by
  have e : ({ s with pageAsks := 0 } : State) = s := by rw [← h]
  unfold State.servePage
  rw [e, h]
  rfl

/-- Nothing waits: the end of a command changes nothing. -/
theorem settle_of_wait {s : State} (rounds : s.roundsAsked = 0) (pages : s.pageAsks = 0)
    (writes : s.price.active ≠ none ∨ s.price.queue = []) : s.settle = s := by
  unfold State.settle State.settleUnits
  rw [runRounds_of_none rounds, serveStore_of_wait writes, servePage_of_none pages]

theorem State.Quiet.settle {s : State} (h : s.Quiet) : s.settle = s := settle_of_wait h.rounds h.pages h.writes

theorem live_of_live {s : State} (h : s.inReset = false) (f : State → State) : s.live f = (f s).settle := by
  unfold State.live; rw [h]; rfl

theorem live_in_reset {s : State} (h : s.inReset = true) (f : State → State) : s.live f = s := by
  unfold State.live; rw [h]; rfl

/-- A quiet state and an effect that asks for nothing. -/
theorem live_of_quiet {s : State} (h : s.Quiet) (f : State → State) (rounds : (f s).roundsAsked = s.roundsAsked)
    (pages : (f s).pageAsks = s.pageAsks) (active : (f s).price.active = s.price.active)
    (queue : (f s).price.queue = s.price.queue) : s.live f = f s := by
  rw [live_of_live h.live]
  refine settle_of_wait (rounds.trans h.rounds) (pages.trans h.pages) ?_
  rw [active, queue]
  exact h.writes

/-- A command whose effect on a quiet state is known and asks for nothing answers that state. -/
theorem next_of_quiet {s : State} (h : s.Quiet) (f : State → State) {t : State} (e : f s = t)
    (rounds : t.roundsAsked = s.roundsAsked) (pages : t.pageAsks = s.pageAsks)
    (active : t.price.active = s.price.active) (queue : t.price.queue = s.price.queue) :
    (Host.Outcome.next (s.live f) : Host.Outcome State Fault Refusal) = .next t := by
  rw [live_of_quiet h f (by rw [e, rounds]) (by rw [e, pages]) (by rw [e, active]) (by rw [e, queue]), e]

theorem next_congr {s t : State} (h : s = t) : (Host.Outcome.next s : Host.Outcome State Fault Refusal) = .next t := by
  rw [h]

/-- A page rewrite asked once while one is in progress sets the rewrite-pending mark (R159). -/
theorem settle_page_pending {s : State} (rounds : s.roundsAsked = 0) (pages : s.pageAsks ≠ 0)
    (writes : s.price.active ≠ none ∨ s.price.queue = []) (busy : s.xchg.rewriting = true) :
    s.settle = { s with pageAsks := 0, xchg.rewritePending := true } := by
  unfold State.settle State.settleUnits
  rw [runRounds_of_none rounds, serveStore_of_wait writes]
  unfold State.servePage
  dsimp only
  rw [if_neg pages, if_pos busy]

/-- A page rewrite asked once while the writer is idle starts one (R159). -/
theorem settle_page_idle {s : State} (rounds : s.roundsAsked = 0) (pages : s.pageAsks = 1)
    (writes : s.price.active ≠ none ∨ s.price.queue = []) (idle : s.xchg.rewriting = false) :
    s.settle = ({ s with pageAsks := 0 } : State).startRewrite := by
  unfold State.settle State.settleUnits
  rw [runRounds_of_none rounds, serveStore_of_wait writes]
  unfold State.servePage
  dsimp only
  rw [pages, if_neg (by decide), if_neg (by rw [idle]; decide), if_neg (by decide)]

end Sys2Proof.Machine
end

