-- ==== Sys2Proof/Laws/Page.lean ====
section
/-!
SUPPORT. What a rewrite of the status page writes, and what it leaves alone: the bytes outside the page, the slots, and
every unit.
-/
namespace Sys2Proof.Machine

set_option Elab.async false

theorem pageBlock_length (n : Nat) (ws : List Word) : (pageBlock n ws).length = n := by simp [pageBlock]

theorem pageBody_length (s : State) : s.pageBody.length = 2047 := by
  unfold State.pageBody
  simp only [List.length_append, pageBlock_length, List.length_replicate, pageSize]

theorem read_startRewrite (s : State) (a : Nat) (h : outsidePage a) :
    s.startRewrite.xchg.mem.read a = s.xchg.mem.read a := by
  show (s.xchg.mem.storeWords _ _).read a = _
  rw [Memory.read_storeWords_of_outside]
  rw [List.length_cons, pageBody_length]
  exact h

/-- A word outside the page is as it was. -/
theorem word_startRewrite (s : State) (a : Nat) (h : a < pageBase ∨ pageBase + pageSize ≤ a) :
    s.startRewrite.xchg.mem.word a = s.xchg.mem.word a := by
  show (s.xchg.mem.storeWords _ _).word a = _
  rw [Memory.word_storeWords, if_neg]
  rw [List.length_cons, pageBody_length]
  unfold pageBase pageSize at *
  omega

/-- The generation count stands at the head of the page (R160). -/
theorem count_startRewrite (s : State) : s.startRewrite.xchg.mem.word pageBase = s.xchg.generation + 1 := by
  show (s.xchg.mem.storeWords _ _).word _ = _
  rw [Memory.word_storeWords, if_pos (by rw [List.length_cons, pageBody_length]; unfold pageBase; omega), Nat.sub_self]
  rfl

/-- The words of a rewritten page behind its count are those of the page's body (R171). -/
theorem words_startRewrite (s : State) (k n : Nat) (h : k + n ≤ 2047) :
    s.startRewrite.xchg.mem.words (pageBase + 1 + k) n = (s.pageBody.drop k).take n := by
  show (s.xchg.mem.storeWords _ _).words _ _ = _
  rw [Memory.words_storeWords _ _ _ _ _ (by omega) (by rw [List.length_cons, pageBody_length]; omega),
    show pageBase + 1 + k - pageBase = k + 1 by omega, List.drop_succ_cons]

/-- What a rewrite's start changes: fields of the Exchange Unit alone. -/
theorem startRewrite_eq (s : State) : s.startRewrite = { s with
    xchg.rewriting := true, xchg.generation := s.xchg.generation + 1, xchg.rewriteBegan := some s.elapsed,
    xchg.mem := s.xchg.mem.storeWords pageBase ((s.xchg.generation + 1) :: State.pageBody s) } := rfl

/-- A signed word shows every number of its range whole (R169). -/
theorem showSigned_toInt {i : Int} (lower : -32768 ≤ i) (upper : i ≤ 32767) : (showSigned i).toInt = i := by
  rw [showSigned, min_eq_left upper, max_eq_right lower, BitVec.toInt_ofInt, Int.bmod_eq_of_le] <;> omega

/-- R105, R106: no allowance exceeds the converter's full rating, so a setpoint within them fits one signed word. -/
theorem allowances_le_full (c : Condition) (missed reserve : Bool) (limit full : Nat) :
    dischargeAllowance c missed reserve limit full ≤ full ∧ chargeAllowance c limit full ≤ full := by
  cases c <;> cases missed <;> cases reserve <;> simp [dischargeAllowance, chargeAllowance]

/-- The end of a command changes nothing but the Exchange Unit's page state when only a page rewrite was asked (R159). -/
theorem servePage_frame (s : State) : ∃ x : ExchangeUnit, s.servePage = { s with pageAsks := 0, xchg := x }
    ∧ x.attn = s.xchg.attn ∧ x.mask = s.xchg.mask ∧ x.clock = s.xchg.clock ∧ x.offset = s.xchg.offset
    ∧ x.sweeping = s.xchg.sweeping ∧ x.lastSlot = s.xchg.lastSlot ∧ x.wakePending = s.xchg.wakePending
    ∧ x.timersOn = s.xchg.timersOn ∧ x.holder = s.xchg.holder ∧ x.lost = s.xchg.lost
    ∧ (∀ a, outsidePage a → x.mem.read a = s.xchg.mem.read a)
    ∧ (∀ a, a < pageBase ∨ pageBase + pageSize ≤ a → x.mem.word a = s.xchg.mem.word a) := by
  unfold State.servePage
  dsimp only
  split
  · exact ⟨s.xchg, rfl, rfl, rfl, rfl, rfl, rfl, rfl, rfl, rfl, rfl, rfl, fun _ _ => rfl, fun _ _ => rfl⟩
  split
  · exact ⟨_, rfl, rfl, rfl, rfl, rfl, rfl, rfl, rfl, rfl, rfl, rfl, fun _ _ => rfl, fun _ _ => rfl⟩
  split
  · exact ⟨_, rfl, rfl, rfl, rfl, rfl, rfl, rfl, rfl, rfl, rfl, rfl,
      fun a h => read_startRewrite { s with pageAsks := 0 } a h, fun a h => word_startRewrite { s with pageAsks := 0 } a h⟩
  · exact ⟨_, rfl, rfl, rfl, rfl, rfl, rfl, rfl, rfl, rfl, rfl, rfl,
      fun a h => read_startRewrite { s with pageAsks := 0 } a h, fun a h => word_startRewrite { s with pageAsks := 0 } a h⟩

/-- The end of a command when no round was asked and no store write may begin. -/
theorem settle_eq_servePage {s : State} (rounds : s.roundsAsked = 0)
    (writes : s.price.active ≠ none ∨ s.price.queue = []) : s.settle = s.servePage := by
  unfold State.settle State.settleUnits
  rw [runRounds_of_none rounds, serveStore_of_wait writes]

/-- One page rewrite asked, and nothing else that waits (R159, R160). -/
theorem settle_page_asked {s : State} (rounds : s.roundsAsked = 0) (pages : s.pageAsks = 1)
    (writes : s.price.active ≠ none ∨ s.price.queue = []) : ∃ x : ExchangeUnit,
    s.settle = { s with pageAsks := 0, xchg := x } ∧ PageAsked s.xchg x s.elapsed := by
  cases busy : s.xchg.rewriting with
  | true =>
    rw [settle_page_pending rounds (by rw [pages]; decide) writes busy]
    refine ⟨_, rfl, busy, ?_, ?_, ?_, fun _ _ => rfl, rfl, rfl, rfl, rfl, rfl, rfl, rfl, rfl, rfl, rfl⟩
    all_goals rw [busy]; rfl
  | false =>
    rw [settle_page_idle rounds pages writes busy]
    refine ⟨_, startRewrite_eq _, rfl, ?_, ?_, ?_, fun a h => read_startRewrite { s with pageAsks := 0 } a h, rfl, rfl, rfl,
      rfl, rfl, rfl, rfl, rfl, rfl, rfl⟩
    all_goals rw [busy]; rfl

/-- A command whose effect on a quiet state is known and asks for one page rewrite answers that state, with the rewrite. -/
theorem next_of_quiet_page {s : State} (h : s.Quiet) (f : State → State) {t : State} (e : f s = t.askPage)
    (rounds : t.roundsAsked = s.roundsAsked) (pages : t.pageAsks = s.pageAsks)
    (active : t.price.active = s.price.active) (queue : t.price.queue = s.price.queue) : ∃ x : ExchangeUnit,
    (Host.Outcome.next (s.live f) : Host.Outcome State Fault Refusal) = .next { t with xchg := x }
      ∧ PageAsked t.xchg x t.elapsed := by
  have k := pages.trans h.pages
  obtain ⟨x, e', hx⟩ := settle_page_asked (s := t.askPage) (rounds.trans h.rounds) (by show t.pageAsks + 1 = 1; rw [k])
    (by show t.price.active ≠ none ∨ t.price.queue = []; rw [active, queue]; exact h.writes)
  refine ⟨x, next_congr ?_, hx⟩
  rw [live_of_live h.live, e, e']
  show ({ t with pageAsks := 0, xchg := x } : State) = { t with pageAsks := t.pageAsks, xchg := x }
  rw [k]

end Sys2Proof.Machine
end

