-- ==== Sys2Proof/Laws/Ends.lean ====
section
/-!
SUPPORT. What the end of a command may change: the relation Ends, that settle stays within it while no store write may
begin, and that nothing waits after settle. And Keeps for a whole command.
-/
namespace Sys2Proof.Machine

set_option Elab.async false

/-- `t` is `s` after its rounds and page rewrites have been served: what Calm leaves free, and the status page. -/
structure Ends (s t : State) : Prop where
  roundsAsked : t.roundsAsked = 0
  pageAsks : t.pageAsks = 0
  meter : t.meter = s.meter
  blindTimer : t.allot.blindTimer = s.allot.blindTimer
  blindBudget : t.allot.blindBudget = s.allot.blindBudget
  hold : t.hold = s.hold
  grid : t.grid = s.grid
  rcpt : t.rcpt = s.rcpt
  price : t.price = s.price
  nv : t.nv = s.nv
  site : t.site = s.site
  elapsed : t.elapsed = s.elapsed
  inReset : t.inReset = s.inReset
  restartDue : t.restartDue = s.restartDue
  pending : t.pending = s.pending
  spiData : t.spiData = s.spiData
  vouchers : t.sess.vouchers = s.sess.vouchers
  voids : t.sess.voids = s.sess.voids
  attn : t.xchg.attn = s.xchg.attn ||| t.xchg.attn
  mask : t.xchg.mask = s.xchg.mask
  clock : t.xchg.clock = s.xchg.clock
  offset : t.xchg.offset = s.xchg.offset
  sweeping : t.xchg.sweeping = s.xchg.sweeping
  lastSlot : t.xchg.lastSlot = s.xchg.lastSlot
  wakePending : t.xchg.wakePending = s.xchg.wakePending
  timersOn : t.xchg.timersOn = s.xchg.timersOn
  holder : t.xchg.holder = s.xchg.holder
  lost : t.xchg.lost = s.xchg.lost
  read : ∀ a, outsidePage a → t.xchg.mem.read a = s.xchg.mem.read a
  word : ∀ a, a < pageBase ∨ pageBase + pageSize ≤ a → t.xchg.mem.word a = s.xchg.mem.word a
  bus : t.link.bus = s.link.bus
  nextTag : t.link.nextTag = s.link.nextTag
  frameErrors : t.link.frameErrors = s.link.frameErrors
  missedPolls : t.link.missedPolls = s.link.missedPolls
  replacedModules : t.link.replacedModules = s.link.replacedModules
  store : t.store.still = s.store.still
  record : ∀ target, (t.recOf target).still = (s.recOf target).still
  bay : ∀ b, (t.bayOf b).still = (s.bayOf b).still
  table : t.sess.table.map Session.still = s.sess.table.map Session.still

/-- The price unit is not about to begin a write. -/
abbrev State.WritesWait (s : State) : Prop := s.price.active ≠ none ∨ s.price.queue = []

/-- The end of a command, when no store write may begin: the rounds, then the page. -/
theorem settle_calm {s : State} (h : s.WritesWait) :
    Calm { s with roundsAsked := 0 } s.runRounds ∧ s.settle = s.runRounds.servePage := by
  have k := calm_runRounds s
  refine ⟨k, ?_⟩
  unfold State.settle State.settleUnits
  rw [serveStore_of_wait]
  rw [k.price]
  exact h

theorem ends_of_calm {s u : State} (k : Calm s u) (h : u.roundsAsked = 0) : Ends s u.servePage := by
  obtain ⟨x, e, h1, h2, h3, h4, h5, h6, h7, h8, h9, h10, h11, h12⟩ := servePage_frame u
  rw [e]
  have kx := k.xchg
  exact
  { k with
    roundsAsked := h
    pageAsks := rfl
    attn := by show x.attn = _ ||| x.attn; rw [h1]; exact k.attn
    mask := h2.trans (by rw [kx])
    clock := h3.trans (by rw [kx])
    offset := h4.trans (by rw [kx])
    sweeping := h5.trans (by rw [kx])
    lastSlot := h6.trans (by rw [kx])
    wakePending := h7.trans (by rw [kx])
    timersOn := h8.trans (by rw [kx])
    holder := h9.trans (by rw [kx])
    lost := h10.trans (by rw [kx])
    read := fun a ha => (h11 a ha).trans (by rw [kx])
    word := fun a ha => (h12 a ha).trans (by rw [kx]) }

/-- What the end of a command may change, when no store write may begin. -/
theorem ends_settle {s : State} (h : s.WritesWait) : Ends s s.settle := by
  obtain ⟨k, e⟩ := settle_calm h
  rw [e]
  exact { ends_of_calm k k.roundsAsked with }

theorem price_answerSlot (s : State) (i : Fin 48) (t : Word) (r : Reply) : (s.answerSlot i t r).price = s.price := by
  unfold State.answerSlot
  split <;> rfl

theorem price_answerPlace (s : State) (p : Fin 8) (r : Reply) : (s.answerPlace p r).price = s.price := by
  unfold State.answerPlace
  split
  · rfl
  · exact price_answerSlot _ _ _ _

theorem price_answerWrite (s : State) (p : Option (Fin 8)) (r : Reply) : (s.answerWrite p r).price = s.price := by
  cases p
  · rfl
  · exact price_answerPlace _ _ _

theorem queue_beginWrite (s : State) (j : StoreJob) : (s.beginWrite j).price.queue = s.price.queue := by
  unfold State.beginWrite
  (repeat' split) <;> first | rfl | (rw [price_answerWrite])

theorem asked_answerSlot (s : State) (i : Fin 48) (t : Word) (r : Reply) :
    (s.answerSlot i t r).roundsAsked = s.roundsAsked ∧ (s.answerSlot i t r).pageAsks = s.pageAsks := by
  unfold State.answerSlot
  split <;> exact ⟨rfl, rfl⟩

theorem asked_answerPlace (s : State) (p : Fin 8) (r : Reply) :
    (s.answerPlace p r).roundsAsked = s.roundsAsked ∧ (s.answerPlace p r).pageAsks = s.pageAsks := by
  unfold State.answerPlace
  split
  · exact ⟨rfl, rfl⟩
  · exact asked_answerSlot _ _ _ _

theorem asked_beginWrite (s : State) (j : StoreJob) : (s.beginWrite j).roundsAsked = s.roundsAsked := by
  unfold State.beginWrite State.answerWrite
  (repeat' split) <;> first | rfl | exact (asked_answerPlace _ _ _).1

/-- After the queued writes had their turn, none may begin, and no round has been asked. -/
theorem wait_beginWrites (n : Nat) (s : State) (h : s.price.queue.length ≤ n) :
    (State.beginWrites n s).WritesWait ∧ (State.beginWrites n s).roundsAsked = s.roundsAsked := by
  induction n generalizing s with
  | zero => exact ⟨Or.inr (List.length_eq_zero_iff.1 (Nat.le_zero.1 h)), rfl⟩
  | succ n ih =>
    unfold State.beginWrites
    split
    · next j js ha hq =>
      have k := ih (({ s with price.queue := js } : State).beginWrite j) (by
        rw [queue_beginWrite]
        rw [hq] at h
        exact Nat.le_of_succ_le_succ h)
      exact ⟨k.1, k.2.trans (asked_beginWrite _ _)⟩
    · next hno =>
      refine ⟨?_, rfl⟩
      by_cases ha : s.price.active = none
      · right
        cases hq : s.price.queue with
        | nil => rfl
        | cons j js => exact (hno j js ha hq).elim
      · exact Or.inl ha

/-! ## The end of any command -/

/-- What the writing of answers changes in the Exchange Unit. -/
def ExchangeUnit.still (x : ExchangeUnit) : ExchangeUnit :=
  { x with mem := [], attn := 0, lost := 0, holder := Vector.replicate 8 none, rewriting := false, rewritePending := false,
           generation := 0, rewriteBegan := none }

theorem answerSlot_only (s : State) (i : Fin 48) (t : Word) (r : Reply) : ∃ x : ExchangeUnit,
    s.answerSlot i t r = { s with xchg := x } ∧ x.still = s.xchg.still ∧ x.attn = s.xchg.attn ||| x.attn := by
  unfold State.answerSlot
  split
  · refine ⟨_, rfl, rfl, ?_⟩
    show s.xchg.attn ||| _ = s.xchg.attn ||| (s.xchg.attn ||| _)
    rw [← BitVec.or_assoc, BitVec.or_self]
  · exact ⟨_, rfl, rfl, (BitVec.or_self).symm⟩

theorem answerPlace_only (s : State) (p : Fin 8) (r : Reply) : ∃ x : ExchangeUnit,
    s.answerPlace p r = { s with xchg := x } ∧ x.still = s.xchg.still ∧ x.attn = s.xchg.attn ||| x.attn := by
  unfold State.answerPlace
  split
  · exact ⟨_, rfl, rfl, (BitVec.or_self).symm⟩
  · next h _ =>
    obtain ⟨x, e, h1, h2⟩ := answerSlot_only s h.slot h.ticket r
    rw [e]
    exact ⟨_, rfl, h1, h2⟩

/-- A write that begins, or is answered instead, changes the Pricing Unit and the Exchange Unit. -/
theorem beginWrite_only (s : State) (j : StoreJob) : ∃ (p : PricingUnit) (x : ExchangeUnit),
    s.beginWrite j = { s with price := p, xchg := x } ∧ x.still = s.xchg.still ∧ x.attn = s.xchg.attn ||| x.attn
      ∧ p.bands = s.price.bands ∧ p.generation = s.price.generation ∧ p.locked = s.price.locked
      ∧ p.lockCount = s.price.lockCount ∧ p.sessions = s.price.sessions ∧ p.receipts = s.price.receipts
      ∧ p.damaged = s.price.damaged ∧ p.lastWrite = s.price.lastWrite := by
  have k : ∀ place r, ∃ (p : PricingUnit) (x : ExchangeUnit), s.answerWrite place r = { s with price := p, xchg := x }
      ∧ x.still = s.xchg.still ∧ x.attn = s.xchg.attn ||| x.attn
      ∧ p.bands = s.price.bands ∧ p.generation = s.price.generation ∧ p.locked = s.price.locked
      ∧ p.lockCount = s.price.lockCount ∧ p.sessions = s.price.sessions ∧ p.receipts = s.price.receipts
      ∧ p.damaged = s.price.damaged ∧ p.lastWrite = s.price.lastWrite := fun place r => by
    cases place with
    | none => exact ⟨_, _, rfl, rfl, (BitVec.or_self).symm, rfl, rfl, rfl, rfl, rfl, rfl, rfl, rfl⟩
    | some q =>
      obtain ⟨x, e, h1, h2⟩ := answerPlace_only s q r
      exact ⟨_, x, e, h1, h2, rfl, rfl, rfl, rfl, rfl, rfl, rfl, rfl⟩
  unfold State.beginWrite
  (repeat' split) <;> first
    | exact k _ _
    | exact ⟨_, _, rfl, rfl, (BitVec.or_self).symm, rfl, rfl, rfl, rfl, rfl, rfl, rfl, rfl⟩

theorem beginWrites_only (n : Nat) (s : State) : ∃ (p : PricingUnit) (x : ExchangeUnit),
    State.beginWrites n s = { s with price := p, xchg := x } ∧ x.still = s.xchg.still
      ∧ x.attn = s.xchg.attn ||| x.attn ∧ p.bands = s.price.bands ∧ p.generation = s.price.generation
      ∧ p.locked = s.price.locked ∧ p.lockCount = s.price.lockCount ∧ p.sessions = s.price.sessions
      ∧ p.receipts = s.price.receipts ∧ p.damaged = s.price.damaged ∧ p.lastWrite = s.price.lastWrite := by
  induction n generalizing s with
  | zero => exact ⟨_, _, rfl, rfl, (BitVec.or_self).symm, rfl, rfl, rfl, rfl, rfl, rfl, rfl, rfl⟩
  | succ n ih =>
    unfold State.beginWrites
    split
    · next j js ha hq =>
      obtain ⟨p, x, e, h0, h1, h2⟩ := beginWrite_only ({ s with price.queue := js } : State) j
      obtain ⟨p', x', e', k0, k1, k2⟩ := ih (({ s with price.queue := js } : State).beginWrite j)
      rw [e] at k0 k1 k2
      refine ⟨p', x', by rw [e', e], k0.trans h0, or_absorb h1 k1, k2.1.trans h2.1, k2.2.1.trans h2.2.1,
        k2.2.2.1.trans h2.2.2.1, k2.2.2.2.1.trans h2.2.2.2.1, k2.2.2.2.2.1.trans h2.2.2.2.2.1,
        k2.2.2.2.2.2.1.trans h2.2.2.2.2.2.1, k2.2.2.2.2.2.2.1.trans h2.2.2.2.2.2.2.1,
        k2.2.2.2.2.2.2.2.trans h2.2.2.2.2.2.2.2⟩
    · exact ⟨_, _, rfl, rfl, (BitVec.or_self).symm, rfl, rfl, rfl, rfl, rfl, rfl, rfl, rfl⟩

/-- `t` is `s` after its rounds, store writes and page rewrites have been served. -/
structure Settled (s t : State) : Prop where
  meter : t.meter = s.meter
  blindTimer : t.allot.blindTimer = s.allot.blindTimer
  blindBudget : t.allot.blindBudget = s.allot.blindBudget
  hold : t.hold = s.hold
  grid : t.grid = s.grid
  rcpt : t.rcpt = s.rcpt
  nv : t.nv = s.nv
  site : t.site = s.site
  elapsed : t.elapsed = s.elapsed
  inReset : t.inReset = s.inReset
  restartDue : t.restartDue = s.restartDue
  pending : t.pending = s.pending
  spiData : t.spiData = s.spiData
  vouchers : t.sess.vouchers = s.sess.vouchers
  voids : t.sess.voids = s.sess.voids
  attn : t.xchg.attn = s.xchg.attn ||| t.xchg.attn
  xchg : t.xchg.still = s.xchg.still
  bus : t.link.bus = s.link.bus
  nextTag : t.link.nextTag = s.link.nextTag
  frameErrors : t.link.frameErrors = s.link.frameErrors
  missedPolls : t.link.missedPolls = s.link.missedPolls
  replacedModules : t.link.replacedModules = s.link.replacedModules
  store : t.store.still = s.store.still
  record : ∀ target, (t.recOf target).still = (s.recOf target).still
  bay : ∀ b, (t.bayOf b).still = (s.bayOf b).still
  table : t.sess.table.map Session.still = s.sess.table.map Session.still
  bands : t.price.bands = s.price.bands
  generation : t.price.generation = s.price.generation
  locked : t.price.locked = s.price.locked
  lockCount : t.price.lockCount = s.price.lockCount
  sessions : t.price.sessions = s.price.sessions
  receipts : t.price.receipts = s.price.receipts
  damaged : t.price.damaged = s.price.damaged
  lastWrite : t.price.lastWrite = s.price.lastWrite

/-- What the end of any command may change. -/
theorem settled_settle (s : State) : Settled s s.settle := by
  have k : Calm { s with roundsAsked := 0 } s.runRounds := calm_runRounds s
  obtain ⟨p, x, e, h0, h1, h2, h3, h4, h5, h6, h7, h8, h9⟩ := beginWrites_only s.runRounds.price.queue.length s.runRounds
  have e' : s.settle = ({ s.runRounds with price := p, xchg := x } : State).servePage := by
    unfold State.settle State.settleUnits State.serveStore
    rw [e]
  generalize s.runRounds = u at *
  obtain ⟨y, f, g1, g2, g3, g4, g5, g6, g7, g8, -⟩ := servePage_frame ({ u with price := p, xchg := x } : State)
  rw [e', f]
  have kp : u.price = s.price := k.price
  exact
  { k with
    attn := by show y.attn = _ ||| y.attn; rw [g1]; exact or_absorb k.attn h1
    xchg := by
      have a : u.xchg.still = s.xchg.still := by rw [k.xchg]; rfl
      show y.still = _
      rw [← a, ← h0]
      unfold ExchangeUnit.still
      rw [g2, g3, g4, g5, g6, g7, g8]
    bands := by rw [← kp]; exact h2
    generation := by rw [← kp]; exact h3
    locked := by rw [← kp]; exact h4
    lockCount := by rw [← kp]; exact h5
    sessions := by rw [← kp]; exact h6
    receipts := by rw [← kp]; exact h7
    damaged := by rw [← kp]; exact h8
    lastWrite := by rw [← kp]; exact h9 }

/-- What waits after the end of a command outside reset: nothing. -/
theorem quiet_settle (s : State) (h : s.inReset = false) : s.settle.Quiet := by
  have k := wait_beginWrites s.runRounds.price.queue.length s.runRounds (le_refl _)
  obtain ⟨x, e, _⟩ := servePage_frame s.settleUnits
  have r : s.settle.inReset = s.inReset := (keeps_settle (Keeps.rfl' s)).inReset
  refine ⟨r.trans h, ?_, ?_, ?_⟩
  · show s.settleUnits.servePage.roundsAsked = 0
    rw [e]
    exact k.2.trans (calm_runRounds s).roundsAsked
  · show s.settleUnits.servePage.pageAsks = 0
    rw [e]
  · show s.settleUnits.servePage.WritesWait
    rw [e]
    exact k.1

/-- What waits after a command outside reset: nothing. -/
theorem quiet_live (s : State) (f : State → State) (h : (s.live f).inReset = false) (keep : ∀ t, Keeps t (f t)) :
    (s.live f).Quiet := by
  cases e : s.inReset with
  | true => rw [live_in_reset e] at h; rw [e] at h; cases h
  | false => rw [live_of_live e]; exact quiet_settle _ ((keep s).inReset.trans e)

end Sys2Proof.Machine
end

