-- ==== Sys2Proof/Laws/Aside.lean ====
section
/-!
SUPPORT. What the hold controller, the grid watch and the derivation of the battery condition leave as it is: the relation
Aside, wider than Calm by the hold, the grid, the Store Unit and the slots of answered requests.
-/
namespace Sys2Proof.Machine

set_option Elab.async false

structure Aside (s t : State) : Prop where
  meter : t.meter = s.meter
  blindTimer : t.allot.blindTimer = s.allot.blindTimer
  blindBudget : t.allot.blindBudget = s.allot.blindBudget
  rcpt : t.rcpt = s.rcpt
  price : t.price = s.price
  nv : t.nv = s.nv
  site : t.site = s.site
  elapsed : t.elapsed = s.elapsed
  inReset : t.inReset = s.inReset
  restartDue : t.restartDue = s.restartDue
  roundsAsked : t.roundsAsked = s.roundsAsked
  pending : t.pending = s.pending
  spiData : t.spiData = s.spiData
  vouchers : t.sess.vouchers = s.sess.vouchers
  voids : t.sess.voids = s.sess.voids
  attn : t.xchg.attn = s.xchg.attn ||| t.xchg.attn
  xchg : t.xchg.still = s.xchg.still
  bus : t.link.bus = s.link.bus
  nextTag : t.link.nextTag = s.link.nextTag
  frameErrors : t.link.frameErrors = s.link.frameErrors
  missedPolls : t.link.missedPolls = s.link.missedPolls
  replacedModules : t.link.replacedModules = s.link.replacedModules
  record : ∀ target, (t.recOf target).still = (s.recOf target).still
  bay : ∀ b, (t.bayOf b).still = (s.bayOf b).still
  table : t.sess.table.map Session.still = s.sess.table.map Session.still

theorem Calm.aside {s t : State} (h : Calm s t) : Aside s t := { h with xchg := by rw [h.xchg]; rfl }

theorem Aside.rfl' (s : State) : Aside s s := (Calm.rfl' s).aside

theorem Aside.trans {s t u : State} (h : Aside s t) (k : Aside t u) : Aside s u where
  meter := k.meter.trans h.meter
  blindTimer := k.blindTimer.trans h.blindTimer
  blindBudget := k.blindBudget.trans h.blindBudget
  rcpt := k.rcpt.trans h.rcpt
  price := k.price.trans h.price
  nv := k.nv.trans h.nv
  site := k.site.trans h.site
  elapsed := k.elapsed.trans h.elapsed
  inReset := k.inReset.trans h.inReset
  restartDue := k.restartDue.trans h.restartDue
  roundsAsked := k.roundsAsked.trans h.roundsAsked
  pending := k.pending.trans h.pending
  spiData := k.spiData.trans h.spiData
  vouchers := k.vouchers.trans h.vouchers
  voids := k.voids.trans h.voids
  attn := or_absorb h.attn k.attn
  xchg := k.xchg.trans h.xchg
  bus := k.bus.trans h.bus
  nextTag := k.nextTag.trans h.nextTag
  frameErrors := k.frameErrors.trans h.frameErrors
  missedPolls := k.missedPolls.trans h.missedPolls
  replacedModules := k.replacedModules.trans h.replacedModules
  record := fun x => (k.record x).trans (h.record x)
  bay := fun b => (k.bay b).trans (h.bay b)
  table := k.table.trans h.table

theorem aside_raise {z s : State} (h : Aside z s) (a : Attention) : Aside z (s.raise a) :=
  h.trans (calm_raise (Calm.rfl' s) a).aside

theorem aside_answerPlace {z s : State} (h : Aside z s) (p : Fin 8) (r : Reply) : Aside z (s.answerPlace p r) := by
  obtain ⟨x, e, h1, h2⟩ := answerPlace_only s p r
  rw [e]
  exact { h with attn := or_absorb h.attn h2, xchg := h1.trans h.xchg }

/-- Updates of what Aside leaves free. -/
theorem aside_free {z s : State} (h : Aside z s) (al : AllotUnit) (st : StoreUnit) (ho : HoldController)
    (gr : GridWatch) (pa : Nat) (h1 : al.blindTimer = s.allot.blindTimer := by rfl)
    (h2 : al.blindBudget = s.allot.blindBudget := by rfl) :
    Aside z { s with allot := al, store := st, hold := ho, grid := gr, pageAsks := pa } :=
  { h with blindTimer := h1.trans h.blindTimer, blindBudget := h2.trans h.blindBudget }

theorem aside_holds {z s : State} (h : Aside z s) (ho : HoldController) : Aside z { s with hold := ho } := { h with }

theorem aside_stores {z s : State} (h : Aside z s) (st : StoreUnit) : Aside z { s with store := st } := { h with }

theorem aside_grids {z s : State} (h : Aside z s) (gr : GridWatch) : Aside z { s with grid := gr } := { h with }

/-! ## The Store Unit -/

theorem aside_conditionChanged {z s : State} (h : Aside z s) (old new : Condition) :
    Aside z (s.conditionChanged old new) := by
  unfold State.conditionChanged State.enterBackup
  split
  · dsimp only
    split
    · exact h.trans (calm_queueSetpoint (calm_allot (Calm.rfl' s) _) _).aside
    · exact { h with }
  split
  · exact { h with }
  · exact h.trans (calm_trimSetpoint (Calm.rfl' s)).aside

theorem aside_deriveCondition {z s : State} (h : Aside z s) : Aside z s.deriveCondition := by
  unfold State.deriveCondition
  dsimp only
  split
  · exact h
  · refine aside_conditionChanged ?_ _ _
    exact aside_free (aside_raise (aside_free h s.allot _ s.hold s.grid s.pageAsks) _) _ _ _ _ _

theorem aside_setHoldView {z s : State} (h : Aside z s) (missed : Bool) : Aside z (s.setHoldView missed) := by
  unfold State.setHoldView
  split
  · exact h
  · have k : Aside z { s with store.holdMissed := missed } := { h with }
    exact k.trans (calm_formAndTrim (Calm.rfl' _)).aside

theorem aside_setGridView {z s : State} (h : Aside z s) (absent : Bool) : Aside z (s.setGridView absent) :=
  aside_deriveCondition (aside_stores h _)

/-! ## The hold controller -/

theorem aside_setHold {z s : State} (h : Aside z s) (new : HoldState) : Aside z (s.setHold new) := by
  unfold State.setHold
  dsimp only
  split
  · exact h
  · have k : Aside z (({ s with hold.state := new, hold.ack := decide (new = .met) } : State).raise .grid).askPage :=
      aside_free (aside_raise (aside_free h s.allot s.store _ s.grid s.pageAsks) _) _ _ _ _ _
    split
    · exact aside_setHoldView k _
    · exact k

theorem aside_answerHold {z s : State} (h : Aside z s) (o : Result) : Aside z (s.answerHold o) := by
  unfold State.answerHold
  split
  · exact h
  · split
    · exact h
    · exact aside_answerPlace (aside_holds h _) _ _

theorem aside_demand {z s : State} (h : Aside z s) : Aside z s.demand := aside_setHold (aside_holds h _) _

theorem aside_release {z s : State} (h : Aside z s) : Aside z s.release := aside_setHold (aside_holds h _) _

theorem aside_reformLimit {z s : State} (h : Aside z s) (old : Option Nat) : Aside z (s.reformLimit old) := by
  unfold State.reformLimit
  (repeat' split) <;> first
    | exact h
    | exact aside_demand h
    | exact aside_release h
    | exact { h with }

theorem aside_enterMissed {z s : State} (h : Aside z s) : Aside z s.enterMissed := by
  unfold State.enterMissed
  have k : Aside z (({ s with hold.deadline := none } : State).setHold .missed) := aside_setHold (aside_holds h _) _
  exact aside_answerHold (aside_setHoldView (k.trans (calm_sendAllToWait (Calm.rfl' _) _).aside) _) _

theorem aside_enterMet {z s : State} (h : Aside z s) : Aside z s.enterMet :=
  aside_answerHold (aside_setHold (aside_holds h _) _) _

theorem aside_countGood {z s : State} (h : Aside z s) : Aside z s.countGood := by
  unfold State.countGood
  split
  · exact aside_enterMet h
  · exact { h with }

theorem aside_holdSample {z s : State} (h : Aside z s) (power : Int) : Aside z (s.holdSample power) := by
  unfold State.holdSample
  (repeat' split) <;> first
    | exact h
    | exact aside_countGood h
    | exact aside_demand h
    | exact { h with }

theorem aside_holdDeadlinePasses {z s : State} (h : Aside z s) : Aside z s.holdDeadlinePasses := by
  unfold State.holdDeadlinePasses
  split
  · exact aside_enterMissed h
  · exact h

theorem aside_endRequest {z s : State} (h : Aside z s) (r : HoldRequest) : Aside z (s.endRequest r) := by
  have k : Aside z (({ s with hold.request := none } : State).reformLimit s.effectiveLimit) :=
    aside_reformLimit (aside_holds h _) _
  unfold State.endRequest
  dsimp only
  split
  · exact k
  · exact aside_answerPlace k _ _

theorem aside_holdExpires {z s : State} (h : Aside z s) : Aside z s.holdExpires := by
  unfold State.holdExpires
  split
  · exact h
  · split
    · exact aside_endRequest h _
    · exact h

theorem aside_cancelHold {z s : State} (h : Aside z s) : Aside z s.cancelHold := aside_reformLimit (aside_holds h _) _

/-! ## The grid watch -/

theorem aside_setGrid {z s : State} (h : Aside z s) (new : GridState) (timer : ReturnTimer) :
    Aside z (s.setGrid new timer) := by
  unfold State.setGrid
  have k : Aside z { s with grid := ⟨new, timer⟩ } := { h with }
  dsimp only
  split
  · exact k
  · exact (aside_raise k _).trans (calm_askPage (Calm.rfl' _)).aside

theorem aside_gridLost {z s : State} (h : Aside z s) : Aside z s.gridLost :=
  aside_setGridView ((aside_setGrid h _ _).trans (calm_sendAllToWait (Calm.rfl' _) _).aside) _

theorem aside_gridPresent {z s : State} (h : Aside z s) : Aside z s.gridPresent :=
  aside_setGridView (aside_setGrid h _ _) _

theorem aside_gridSample {z s : State} (h : Aside z s) (present : Bool) : Aside z (s.gridSample present) := by
  unfold State.gridSample
  (repeat' split) <;> first
    | exact h
    | exact aside_gridLost h
    | exact aside_gridPresent h
    | exact aside_setGrid h _ _

theorem aside_returnRunsOut {z s : State} (h : Aside z s) : Aside z s.returnRunsOut := by
  unfold State.returnRunsOut
  (repeat' split) <;> first
    | exact h
    | exact aside_gridPresent h
    | exact { h with }

end Sys2Proof.Machine
end

