-- ==== Sys2Proof/Laws/KeepsExec.lean ====
section
/-!
SUPPORT. The commands as wholes: all but five are one effect of the units, which Keeps, on a part outside reset.
-/
namespace Sys2Proof.Machine

set_option Elab.async false

/-- A command's effect on a part outside reset keeps what the units keep. -/
theorem keeps_live {z s : State} (hz : Keeps z s) (f : State → State) (hf : ∀ t, Keeps z t → Keeps z (f t)) :
    Keeps z (s.live f) := by
  unfold State.live
  split
  · exact hz
  · exact keeps_settle (hf s hz)

/-- A byte of the meter line keeps what a sample keeps. -/
theorem keeps_takeByte {z s : State} (hz : Keeps z s) (b : MeterByte) : Keeps z (s.takeByte b) := by
  have k : Keeps z ({ s with meter.receiver := (s.meter.receiver.take b).1 } : State) := Keeps.upd _ (h := hz)
  unfold State.takeByte
  dsimp only
  split
  · exact k
  · exact keeps_settleUnits (keeps_takeSample k _)

theorem keeps_takeBytes {z s : State} (hz : Keeps z s) (bs : List MeterByte) : Keeps z (State.takeBytes bs s) := by
  induction bs generalizing s with
  | nil => exact hz
  | cons b bs ih => exact ih (keeps_takeByte hz b)

/-- The commands that write model fields, straps, the mask or the clock outside Keeps. -/
def apart : Instr → Bool
  | .powerOnReset _ _ | .resetDrivenLow | .siteClockAdvance | .attnRead | .attnMaskWrite _ => true
  | _ => false

/-- Every other command is one effect that Keeps. -/
theorem exec_live (c : Instr) (s t : State) (h : exec c s = .next t) (hc : apart c = false) :
    ∃ f : State → State, (∀ {z u : State}, Keeps z u → Keeps z (f u)) ∧ t = s.live f := by
  cases c
  all_goals cases hc
  all_goals
    have e := Host.Outcome.next.inj h
    subst e
  case wake => exact ⟨_, fun h => keeps_askSweep (keeps_hostWords h _) _, rfl⟩
  case sweepTimer => exact ⟨_, fun h => keeps_timerSweep (keeps_hostWords h _) _, rfl⟩
  case setSite => exact ⟨_, fun h => keeps_deliverTable h _ _ _ _ _, rfl⟩
  case setTariff => exact ⟨_, fun h => keeps_deliverTable h _ _ _ _ _, rfl⟩
  case run => exact ⟨_, fun h => keeps_commandRun h, rfl⟩
  case restart => exact ⟨_, fun h => keeps_siteRestart h _, rfl⟩
  case setSiteRestart => exact ⟨_, fun h => keeps_followSweep (keeps_dueRestart h), rfl⟩
  case registerWriteNoEffect => exact ⟨_, fun h => h, rfl⟩
  case busFreeTakeFrame => exact ⟨_, fun h => keeps_takeFrame h, rfl⟩
  case frameSent => exact ⟨_, fun h => keeps_frameLeaves h, rfl⟩
  case answerReceived => exact ⟨_, fun h => keeps_takeAnswer h _, rfl⟩
  case answerTimeout => exact ⟨_, fun h => keeps_answerTimesOut h, rfl⟩
  case answerAborted => exact ⟨_, fun h => keeps_answerBreaks h, rfl⟩
  case strayBytes => exact ⟨_, fun h => keeps_countStray h, rfl⟩
  case broadcastWindowEnd => exact ⟨_, fun h => keeps_windowEnds h, rfl⟩
  case schedulerCycle => exact ⟨_, fun h => keeps_startCycle h, rfl⟩
  case sampleReceived => exact ⟨_, fun h => keeps_takeBytes h _, rfl⟩
  case sampleAbort => exact ⟨_, fun h => keeps_abortSample h, rfl⟩
  case meterLost => exact ⟨_, fun h => keeps_loseMeter h, rfl⟩
  case blindTimer => exact ⟨_, fun h => keeps_blindTick h, rfl⟩
  case holdLineChange => exact ⟨_, fun h => keeps_holdLine h _, rfl⟩
  case holdDeadline => exact ⟨_, fun h => keeps_holdDeadlinePasses h, rfl⟩
  case holdRequestEnd => exact ⟨_, fun h => keeps_holdExpires h, rfl⟩
  case returnTimer => exact ⟨_, fun h => keeps_returnRunsOut h, rfl⟩
  case cooldownEnd => exact ⟨_, fun h => keeps_endCooldown h _, rfl⟩
  case voucherExpiryCheck => exact ⟨_, fun h => keeps_expireVouchers h, rfl⟩
  case intervalEnd => exact ⟨_, fun h => keeps_intervalTick h, rfl⟩
  case storeWriteComplete => exact ⟨_, fun h => keeps_writeCompletes h _, rfl⟩
  case lingerTimer => exact ⟨_, fun h => keeps_lingerExpires h, rfl⟩
  case pageTimer => exact ⟨_, fun h => keeps_pageTick h, rfl⟩
  case pageRewriteEnd => exact ⟨_, fun h => keeps_endRewrite h, rfl⟩
  all_goals exact ⟨_, fun h => keeps_deliver h _ _ _ _, rfl⟩

/-- They keep the laws. -/
theorem exec_keeps (c : Instr) (s t : State) (h : exec c s = .next t) (hc : apart c = false) : Keeps s t := by
  obtain ⟨f, k, rfl⟩ := exec_live c s t h hc
  exact keeps_live (Keeps.rfl' s) f fun _ k' => k k'

end Sys2Proof.Machine
end

