-- ==== Sys2Proof/Laws/PerInstr.lean ====
section
/-!
SUPPORT. What well-formedness says of each command, as a proposition: the family Fits, with one lemma for each
constructor.
-/
namespace Sys2Proof

set_option Elab.async false

/-- The visits of a sweep are numbered 0 to 47 (R151). -/
def SweepArrival.Fits (a : SweepArrival) : Prop := a.visit < 48

/-- The fields of a band fit their words (R170). -/
def Band.Fits (b : Band) : Prop := ∀ n ∈ [b.startMinute, b.gridPrice, b.sunPrice, b.batteryPrice, b.idlePrice], n < 65536

/-- The fields of a SET_SITE table fit their words (R170). -/
def SiteSettings.Fits (t : SiteSettings) : Prop :=
  (∀ n ∈ [t.importCap, t.feederLimit, t.exportLimit, t.margin, t.intervalTarget, t.holdLineLimit, t.dischargeLimit,
    t.chargeLimit], n < 4294967296)
  ∧ ∀ n ∈ [t.reserveFloor, t.topUpTarget, t.freeAuthority, t.noticeThreshold, t.noticeLinger, t.idleGrace,
    t.fittedOverride, t.speedOverride], n < 65536

/-- What a command's operands must meet: the line or the memory can carry them. -/
def Instr.Fits : Instr → Prop
  | .wake _ _ arr => ∀ a ∈ arr, a.Fits
  | .sweepTimer _ arr => ∀ a ∈ arr, a.Fits
  | .setSite _ _ _ t => t.Fits
  | .setTariff _ _ _ bands => bands.length ≤ 255 ∧ ∀ b ∈ bands, b.Fits
  | .answerReceived f => f.payload.length = f.length.toNat
  | _ => True

namespace Laws

theorem sweepArrival_wellFormed (a : SweepArrival) : a.wellFormed = true ↔ a.Fits := by
  simp only [SweepArrival.wellFormed, SweepArrival.Fits, decide_eq_true_eq]

theorem band_wellFormed (b : Band) : b.wellFormed = true ↔ b.Fits := by
  simp [Band.wellFormed, Band.Fits, and_assoc]

theorem siteSettings_wellFormed (t : SiteSettings) : t.wellFormed = true ↔ t.Fits := by
  simp [SiteSettings.wellFormed, SiteSettings.Fits]
  tauto

theorem arrivals_wellFormed (arr : List SweepArrival) : arr.all SweepArrival.wellFormed = true ↔ ∀ a ∈ arr, a.Fits := by
  simp only [List.all_eq_true, sweepArrival_wellFormed]

namespace Fits

/-- A command is well formed exactly when its operands fit. -/
def Statement (i : Instr) : Prop := i.wellFormed = true ↔ i.Fits

theorem powerOnReset (straps : Straps) (holdIn : Bool) : Statement (.powerOnReset straps holdIn) := by simp only [Statement, Instr.wellFormed, Instr.Fits]

theorem run : Statement .run := by simp only [Statement, Instr.wellFormed, Instr.Fits]

theorem restart : Statement .restart := by simp only [Statement, Instr.wellFormed, Instr.Fits]

theorem setSiteRestart : Statement .setSiteRestart := by simp only [Statement, Instr.wellFormed, Instr.Fits]

theorem wake (value : Word) (writes : List HostWrite) (arrivals : List SweepArrival) : Statement (.wake value writes arrivals) := arrivals_wellFormed arrivals

theorem sweepTimer (writes : List HostWrite) (arrivals : List SweepArrival) : Statement (.sweepTimer writes arrivals) := arrivals_wellFormed arrivals

theorem setSite (slot : Fin 48) (ticket offset : Word) (settings : SiteSettings) : Statement (.setSite slot ticket offset settings) := by simp only [Statement, Instr.wellFormed, Instr.Fits, siteSettings_wellFormed]

theorem setClock (slot : Fin 48) (ticket : Word) (clock offset : DWord) : Statement (.setClock slot ticket clock offset) := by simp only [Statement, Instr.wellFormed, Instr.Fits]

theorem authorise (slot : Fin 48) (ticket bay : Word) (account : BitVec 128) (limit : DWord) : Statement (.authorise slot ticket bay account limit) := by simp only [Statement, Instr.wellFormed, Instr.Fits]

theorem stopSession (slot : Fin 48) (ticket bay : Word) : Statement (.stopSession slot ticket bay) := by simp only [Statement, Instr.wellFormed, Instr.Fits]

theorem parkBay (slot : Fin 48) (ticket bay : Word) : Statement (.parkBay slot ticket bay) := by simp only [Statement, Instr.wellFormed, Instr.Fits]

theorem returnBay (slot : Fin 48) (ticket bay : Word) : Statement (.returnBay slot ticket bay) := by simp only [Statement, Instr.wellFormed, Instr.Fits]

theorem enrolBay (slot : Fin 48) (ticket address : Word) : Statement (.enrolBay slot ticket address) := by simp only [Statement, Instr.wellFormed, Instr.Fits]

theorem postVoucher (slot : Fin 48) (ticket : Word) (code : BitVec 64) (kind value : Word) (expiry : DWord) : Statement (.postVoucher slot ticket code kind value expiry) := by simp only [Statement, Instr.wellFormed, Instr.Fits]

theorem withdrawVoucher (slot : Fin 48) (ticket : Word) (code : BitVec 64) : Statement (.withdrawVoucher slot ticket code) := by simp only [Statement, Instr.wellFormed, Instr.Fits]

theorem setTariff (slot : Fin 48) (ticket offset : Word) (bands : List Band) : Statement (.setTariff slot ticket offset bands) := by
  simp only [Statement, Instr.wellFormed, Instr.Fits, Bool.and_eq_true, decide_eq_true_eq, List.all_eq_true,
    band_wellFormed]

theorem lockTariff (slot : Fin 48) (ticket : Word) : Statement (.lockTariff slot ticket) := by simp only [Statement, Instr.wellFormed, Instr.Fits]

theorem unlockTariff (slot : Fin 48) (ticket : Word) : Statement (.unlockTariff slot ticket) := by simp only [Statement, Instr.wellFormed, Instr.Fits]

theorem setCounters (slot : Fin 48) (ticket : Word) (session receipt : DWord) : Statement (.setCounters slot ticket session receipt) := by simp only [Statement, Instr.wellFormed, Instr.Fits]

theorem gridHold (slot : Fin 48) (ticket : Word) (limit : DWord) (minutes : Word) : Statement (.gridHold slot ticket limit minutes) := by simp only [Statement, Instr.wellFormed, Instr.Fits]

theorem cancel (slot : Fin 48) (ticket named namedTicket : Word) : Statement (.cancel slot ticket named namedTicket) := by simp only [Statement, Instr.wellFormed, Instr.Fits]

theorem attnRead : Statement .attnRead := by simp only [Statement, Instr.wellFormed, Instr.Fits]

theorem attnMaskWrite (value : Word) : Statement (.attnMaskWrite value) := by simp only [Statement, Instr.wellFormed, Instr.Fits]

theorem registerWriteNoEffect (write : InertWrite) : Statement (.registerWriteNoEffect write) := by simp only [Statement, Instr.wellFormed, Instr.Fits]

theorem busFreeTakeFrame : Statement .busFreeTakeFrame := by simp only [Statement, Instr.wellFormed, Instr.Fits]

theorem frameSent : Statement .frameSent := by simp only [Statement, Instr.wellFormed, Instr.Fits]

theorem answerReceived (answer : AnswerFrame) : Statement (.answerReceived answer) := by simp only [Statement, Instr.wellFormed, Instr.Fits, AnswerFrame.wellFormed, decide_eq_true_eq]

theorem answerTimeout : Statement .answerTimeout := by simp only [Statement, Instr.wellFormed, Instr.Fits]

theorem answerAborted : Statement .answerAborted := by simp only [Statement, Instr.wellFormed, Instr.Fits]

theorem strayBytes : Statement .strayBytes := by simp only [Statement, Instr.wellFormed, Instr.Fits]

theorem broadcastWindowEnd : Statement .broadcastWindowEnd := by simp only [Statement, Instr.wellFormed, Instr.Fits]

theorem schedulerCycle : Statement .schedulerCycle := by simp only [Statement, Instr.wellFormed, Instr.Fits]

theorem sampleReceived (bytes : List MeterByte) : Statement (.sampleReceived bytes) := by simp only [Statement, Instr.wellFormed, Instr.Fits]

theorem sampleAbort : Statement .sampleAbort := by simp only [Statement, Instr.wellFormed, Instr.Fits]

theorem meterLost : Statement .meterLost := by simp only [Statement, Instr.wellFormed, Instr.Fits]

theorem blindTimer : Statement .blindTimer := by simp only [Statement, Instr.wellFormed, Instr.Fits]

theorem holdLineChange (level : Bool) : Statement (.holdLineChange level) := by simp only [Statement, Instr.wellFormed, Instr.Fits]

theorem holdDeadline : Statement .holdDeadline := by simp only [Statement, Instr.wellFormed, Instr.Fits]

theorem holdRequestEnd : Statement .holdRequestEnd := by simp only [Statement, Instr.wellFormed, Instr.Fits]

theorem returnTimer : Statement .returnTimer := by simp only [Statement, Instr.wellFormed, Instr.Fits]

theorem cooldownEnd (bay : BayIx) : Statement (.cooldownEnd bay) := by simp only [Statement, Instr.wellFormed, Instr.Fits]

theorem voucherExpiryCheck : Statement .voucherExpiryCheck := by simp only [Statement, Instr.wellFormed, Instr.Fits]

theorem intervalEnd : Statement .intervalEnd := by simp only [Statement, Instr.wellFormed, Instr.Fits]

theorem storeWriteComplete (result : StoreResult) : Statement (.storeWriteComplete result) := by simp only [Statement, Instr.wellFormed, Instr.Fits]

theorem lingerTimer : Statement .lingerTimer := by simp only [Statement, Instr.wellFormed, Instr.Fits]

theorem pageTimer : Statement .pageTimer := by simp only [Statement, Instr.wellFormed, Instr.Fits]

theorem pageRewriteEnd : Statement .pageRewriteEnd := by simp only [Statement, Instr.wellFormed, Instr.Fits]

theorem resetDrivenLow : Statement .resetDrivenLow := by simp only [Statement, Instr.wellFormed, Instr.Fits]

theorem siteClockAdvance : Statement .siteClockAdvance := by simp only [Statement, Instr.wellFormed, Instr.Fits]

end Fits

end Laws

end Sys2Proof
end

