-- ==== Sys2Proof/Laws/Polls.lean ====
section
/-!
SUPPORT. A good POLL answer: what it hands to the target's unit, and the reading of a bay before its events.
-/
namespace Sys2Proof.Machine

set_option Elab.async false

/-- A target with nothing to send again is left as it is (R12, step 6). -/
theorem serveResend_of_empty {s : State} {t : Target} (h : (s.recOf t).resend = ResendSet.empty) : s.serveResend t = s := by
  have e : s.setRec t { s.recOf t with resend := ResendSet.empty } = s := by
    rw [← h]
    unfold State.setRec State.recOf
    rw [Fin.getElem_fin, Vector.set_getElem_self]
  unfold State.serveResend
  dsimp only
  rw [h, e]
  rfl

theorem setRec_setRec (s : State) (t : Target) (r r' : ModuleRec) : (s.setRec t r).setRec t r' = s.setRec t r' := by
  unfold State.setRec
  dsimp only
  rw [Vector.set_set]

theorem setBay_setBay (s : State) (b : BayIx) (r r' : BayRec) : (s.setBay b r).setBay b r' = s.setBay b r' := by
  unfold State.setBay
  dsimp only
  rw [Vector.set_set]

theorem setBay_bayOf (s : State) (b : BayIx) : s.setBay b (s.bayOf b) = s := by
  unfold State.setBay State.bayOf
  rw [Fin.getElem_fin, Vector.set_getElem_self]

/-- What a good POLL answer hands over (R3, R12). -/
theorem GoodPoll.takeAnswer {s : State} {x : Exchange} {t : Target} {a : AnswerFrame} (h : GoodPoll s x t a) :
    s.takeAnswer a = (({ s with
      link.bus := .idle,
      link.recs := s.link.recs.set t.ix { s.recOf t with missed := 0 } } : State).takeReport t a.payload).serveResend t := by
  unfold State.takeAnswer
  rw [h.awaited]
  dsimp only
  rw [h.frame]
  dsimp only
  rw [if_pos h.good]
  unfold State.answered
  rw [h.frame]
  dsimp only
  unfold State.pollAnswered
  dsimp only
  rw [if_neg]
  · rfl
  · rintro (k | k)
    · unfold statusUnnamed flagByte at k
      rw [h.status] at k
      cases k
    · have hh := h.heard
      have k2 : 3 ≤ (s.recOf t).missed := k.2
      omega

/-- The command's answer. -/
theorem GoodPoll.exec {s : State} {x : Exchange} {t : Target} {a : AnswerFrame} (h : GoodPoll s x t a) :
    execAnswerReceived a s = .next (s.takeAnswer a).settle := next_congr (live_of_live h.quiet.live _)

/-- The report of a NAMED bay (R12, R13, R26). -/
theorem takeReport_bay {s : State} {b : BayIx} (p : List Byte) (h : (s.recOf (.bay b)).link = .named) :
    s.takeReport (.bay b) p
      = (s.takeReading b (bayReport p).energy).pollReport b (bayReport p) (s.bayOf b).state := by
  unfold State.takeReport
  dsimp only
  rw [h]

/-- A reading that is no less than the last one, at a bay without an OPEN session, is kept and does nothing else (R13,
R115). -/
theorem takeReading_of_closed {s : State} {b : BayIx} {reading : Nat} (h : s.openSession b = none)
    (k : ∀ l, (s.recOf (.bay b)).energy = some l → l ≤ reading) :
    s.takeReading b reading = s.setRec (.bay b) { s.recOf (.bay b) with energy := some reading } := by
  unfold State.takeReading
  dsimp only
  have e : (incrementOf (s.recOf (.bay b)).energy reading).2 = false := by
    unfold incrementOf
    cases he : (s.recOf (.bay b)).energy with
    | none => rfl
    | some l => dsimp only; rw [if_pos (k l he)]
  rw [e]
  unfold State.addIncrement
  have h' : (s.setRec (.bay b) { s.recOf (.bay b) with energy := some reading }).openSession b = none := h
  rw [if_neg (by decide), h']

/-- A reading equal to the last one gives no increment: the session takes the reading alone (R13, R115). -/
theorem takeReading_of_same {s : State} {b : BayIx} {reading : Nat}
    (k : (s.recOf (.bay b)).energy = some reading) :
    s.takeReading b reading = s.mapOpen b (fun y => { y with lastReading := some reading }) := by
  have e : (incrementOf (s.recOf (.bay b)).energy reading) = (0, false) := by
    rw [k]
    unfold incrementOf
    dsimp only
    rw [if_pos (le_refl _), Nat.sub_self]
  have e2 : s.setRec (.bay b) { s.recOf (.bay b) with energy := some reading } = s := by
    rw [← k]
    unfold State.setRec State.recOf
    rw [Fin.getElem_fin, Vector.set_getElem_self]
  unfold State.takeReading
  dsimp only
  rw [e, e2]
  unfold State.addIncrement
  rw [if_neg (by decide)]
  cases h : s.openSession b with
  | some x => rfl
  | none =>
    unfold State.openSession at h
    rw [List.find?_eq_none] at h
    unfold State.mapOpen
    have : s.sess.table.map (fun y => if y.isOpen && decide (y.bay = b) then { y with lastReading := some reading } else y)
        = s.sess.table := by
      conv_rhs => rw [← List.map_id s.sess.table]
      refine List.map_congr_left (fun y hy => ?_)
      rw [if_neg (h y hy)]
      rfl
    rw [this]

end Sys2Proof.Machine
end

