-- ==== Sys2Proof/Laws/Power.lean ====
section
/-!
SUPPORT. Power-on reset: the load of the nonvolatile store and the values of the units.
-/
namespace Sys2Proof.Machine

set_option Elab.async false

theorem pending_powerValues (st : Straps) (l : Bool) (nv : StoreImage) (p : List Instr) :
    (powerValues st l nv p).pending = p := rfl

/-- What the load of one number kind leaves alone: all but the numbers of the kind, the queue, the last write and
attention. -/
theorem loadNumbers_frame (s : State) (k : NumberKind) (base : Nat) (damaged : Bool) :
    ∃ (p : PricingUnit) (a : Word), s.loadNumbers k base damaged = { s with price := p, xchg.attn := a }
      ∧ p.bands = s.price.bands ∧ p.generation = s.price.generation ∧ p.locked = s.price.locked
      ∧ p.lockCount = s.price.lockCount ∧ p.unlockPending = s.price.unlockPending ∧ p.active = s.price.active
      ∧ p.damaged = s.price.damaged
      ∧ p.lastWrite = (if maxBase < base + 64 ∧ damaged = false then .failed else s.price.lastWrite) := by
  cases damaged with
  | true => cases k <;> exact ⟨_, _, rfl, rfl, rfl, rfl, rfl, rfl, rfl, rfl, by simp⟩
  | false =>
    unfold State.loadNumbers State.askBlock
    rw [if_neg (by decide)]
    by_cases h : maxBase < base + 64
    · rw [if_pos h]
      cases k <;> exact ⟨_, _, rfl, rfl, rfl, rfl, rfl, rfl, rfl, rfl, by rw [if_pos ⟨h, rfl⟩]⟩
    · rw [if_neg h]
      dsimp only
      split <;> cases k <;> exact ⟨_, _, rfl, rfl, rfl, rfl, rfl, rfl, rfl, rfl, by rw [if_neg (fun c => h c.1)]; rfl⟩

/-- What the load of the store does (R132). -/
theorem loadStore_frame (s : State) :
    ∃ (p : PricingUnit) (a : Word), s.loadStore = { s with
        price := p, xchg.attn := a, site.countersMissing := s.nv.sessionDamaged || s.nv.receiptDamaged }
      ∧ p.bands = (if s.nv.tariffDamaged then [] else s.nv.tariff.bands)
      ∧ p.generation = (if s.nv.tariffDamaged then 0 else s.nv.tariff.generation)
      ∧ p.locked = (if s.nv.tariffDamaged then false else s.nv.tariff.locked)
      ∧ p.lockCount = (if s.nv.tariffDamaged then 0 else s.nv.tariff.lockCount)
      ∧ p.unlockPending = false ∧ p.active = none
      ∧ p.damaged = ⟨s.nv.tariffDamaged, s.nv.sessionDamaged, s.nv.receiptDamaged⟩
      ∧ p.lastWrite = (if maxBase < s.nv.session + 64 ∧ s.nv.sessionDamaged = false
          ∨ maxBase < s.nv.receipt + 64 ∧ s.nv.receiptDamaged = false then .failed else .none) := by
  unfold State.loadStore
  dsimp only
  generalize e0 : ({ s with price := _ } : State) = s0
  obtain ⟨p1, a1, e1, h1⟩ := loadNumbers_frame s0 .session s.nv.session s.nv.sessionDamaged
  obtain ⟨p2, a2, e2, h2⟩ := loadNumbers_frame (s0.loadNumbers .session s.nv.session s.nv.sessionDamaged) .receipt
    s.nv.receipt s.nv.receiptDamaged
  rw [e2, e1]
  rw [e1] at h2
  dsimp only at h2
  refine ⟨p2, (if s.nv.tariffDamaged || s.nv.sessionDamaged || s.nv.receiptDamaged then a2 ||| Attention.store.bit else a2),
    ?_, ?_, ?_, ?_, ?_, ?_, ?_, ?_, ?_⟩
  · rw [← e0]
    split <;> rfl
  · rw [h2.1, h1.1, ← e0]; dsimp only; split <;> rfl
  · rw [h2.2.1, h1.2.1, ← e0]; dsimp only; split <;> rfl
  · rw [h2.2.2.1, h1.2.2.1, ← e0]; dsimp only; split <;> rfl
  · rw [h2.2.2.2.1, h1.2.2.2.1, ← e0]; dsimp only; split <;> rfl
  · rw [h2.2.2.2.2.1, h1.2.2.2.2.1, ← e0]; rfl
  · rw [h2.2.2.2.2.2.1, h1.2.2.2.2.2.1, ← e0]; rfl
  · rw [h2.2.2.2.2.2.2.1, h1.2.2.2.2.2.2.1, ← e0]
  · rw [h2.2.2.2.2.2.2.2, h1.2.2.2.2.2.2.2, ← e0]
    dsimp only [PricingUnit.reset]
    by_cases c1 : maxBase < s.nv.session + 64 ∧ s.nv.sessionDamaged = false <;>
      by_cases c2 : maxBase < s.nv.receipt + 64 ∧ s.nv.receiptDamaged = false <;> simp [c1, c2]

/-- A write begins beside an empty holder: only the Pricing Unit changes, and none of its tariff. -/
theorem beginWrite_frame (s : State) (h : ∀ p : Fin 8, s.xchg.holder[p] = none) (j : StoreJob) :
    ∃ p : PricingUnit, s.beginWrite j = { s with price := p } ∧ p.bands = s.price.bands
      ∧ p.generation = s.price.generation ∧ p.locked = s.price.locked ∧ p.lockCount = s.price.lockCount
      ∧ p.lastWrite = s.price.lastWrite ∧ p.damaged = s.price.damaged := by
  have e : ∀ place r, s.answerWrite place r = s := fun place r => by
    cases place with
    | none => rfl
    | some q => unfold State.answerWrite State.answerPlace; dsimp only; rw [h q]
  unfold State.beginWrite
  (repeat' split) <;> first
    | exact ⟨_, rfl, rfl, rfl, rfl, rfl, rfl, rfl⟩
    | (rw [e]; exact ⟨_, rfl, rfl, rfl, rfl, rfl, rfl, rfl⟩)

/-- The same for all the queued writes. -/
theorem beginWrites_frame (n : Nat) (s : State) (h : ∀ p : Fin 8, s.xchg.holder[p] = none) :
    ∃ p : PricingUnit, State.beginWrites n s = { s with price := p } ∧ p.bands = s.price.bands
      ∧ p.generation = s.price.generation ∧ p.locked = s.price.locked ∧ p.lockCount = s.price.lockCount
      ∧ p.lastWrite = s.price.lastWrite ∧ p.damaged = s.price.damaged := by
  induction n generalizing s with
  | zero => exact ⟨_, rfl, rfl, rfl, rfl, rfl, rfl, rfl⟩
  | succ n ih =>
    unfold State.beginWrites
    split
    · next j js ha hq =>
      obtain ⟨p, e, h1⟩ := beginWrite_frame ({ s with price.queue := js } : State) h j
      obtain ⟨p', e', h2⟩ := ih (({ s with price.queue := js } : State).beginWrite j) (by rw [e]; exact h)
      rw [e] at h2
      refine ⟨p', by rw [e', e], h2.1.trans h1.1, h2.2.1.trans h1.2.1, h2.2.2.1.trans h1.2.2.1,
        h2.2.2.2.1.trans h1.2.2.2.1, h2.2.2.2.2.1.trans h1.2.2.2.2.1, h2.2.2.2.2.2.trans h1.2.2.2.2.2⟩
    · exact ⟨_, rfl, rfl, rfl, rfl, rfl, rfl, rfl⟩

/-- The state before the end of POWER_ON_RESET: the units' values, the numbers and the tariff as loaded. -/
theorem powerOn_frame (s : State) (st : Straps) (l : Bool) :
    ∃ (p : PricingUnit) (a : Word), s.powerOn st l = { powerValues st l s.cutWrite.nv s.cutWrite.pending with
        price := p, xchg.attn := a,
        site.countersMissing := s.cutWrite.nv.sessionDamaged || s.cutWrite.nv.receiptDamaged }
      ∧ p.bands = (if s.cutWrite.nv.tariffDamaged then [] else s.cutWrite.nv.tariff.bands)
      ∧ p.unlockPending = false ∧ p.active = none
      ∧ p.lastWrite = (if maxBase < s.cutWrite.nv.session + 64 ∧ s.cutWrite.nv.sessionDamaged = false
          ∨ maxBase < s.cutWrite.nv.receipt + 64 ∧ s.cutWrite.nv.receiptDamaged = false then .failed else .none) := by
  obtain ⟨p, a, e, h⟩ := loadStore_frame (powerValues st l s.cutWrite.nv s.cutWrite.pending)
  exact ⟨p, a, e, h.1, h.2.2.2.2.1, h.2.2.2.2.2.1, h.2.2.2.2.2.2.2⟩

/-- The state after POWER_ON_RESET: the store's first write and the first page rewrite have begun. -/
theorem powerOn_settle (s : State) (st : Straps) (l : Bool) {pe : List Instr} (hpe : s.pending = pe) :
    ∃ (nv : StoreImage) (p : PricingUnit) (a : Word) (m : Memory), nv = s.cutWrite.nv
      ∧ (s.powerOn st l).settle = { powerValues st l nv pe with
        price := p, pageAsks := 0,
        xchg := { ExchangeUnit.reset with
          attn := a, rewriting := true, generation := 1, rewriteBegan := some 0, mem := m },
        site := { SiteUnit.reset with
          straps := st, holdIn := l, countersMissing := nv.sessionDamaged || nv.receiptDamaged } }
      ∧ p.bands = (if nv.tariffDamaged then [] else nv.tariff.bands)
      ∧ p.lastWrite = (if maxBase < nv.session + 64 ∧ nv.sessionDamaged = false
          ∨ maxBase < nv.receipt + 64 ∧ nv.receiptDamaged = false then .failed else .none)
      ∧ ∀ b, outsidePage b → m.read b = 0 := by
  obtain ⟨p, a, e, hb, -, -, hl⟩ := powerOn_frame s st l
  have hcut : s.cutWrite.pending = s.pending := (keeps_cutWrite (Keeps.rfl' s)).pending
  rw [hcut, hpe] at e
  refine ⟨s.cutWrite.nv, ?_⟩
  generalize s.cutWrite.nv = nv at *
  generalize s.powerOn st l = s0 at *
  have hr : s0.runRounds = s0 := runRounds_of_none (by rw [e]; rfl)
  have hh : ∀ q : Fin 8, s0.xchg.holder[q] = none := by
    rw [e]
    intro q
    show (Vector.replicate 8 none)[q] = none
    simp
  obtain ⟨p', e', g1, -, -, -, g5, -⟩ := beginWrites_frame s0.price.queue.length s0 hh
  have hst : s0.settle = ({ s0 with price := p', pageAsks := 0 } : State).startRewrite := by
    unfold State.settle State.settleUnits State.serveStore
    rw [hr, e', e]
    rfl
  have hm : ∀ b, outsidePage b → ({ s0 with price := p', pageAsks := 0 } : State).startRewrite.xchg.mem.read b = 0 := by
    intro b h
    rw [read_startRewrite _ _ h, e]
    rfl
  rw [hst]
  refine ⟨p', a, _, rfl, ?_, ?_, ?_, hm⟩
  · rw [startRewrite_eq]
    subst e
    rfl
  · rw [g1, e]; exact hb
  · rw [g5, e]; exact hl

end Sys2Proof.Machine
end

