-- ==== Sys2Proof/Laws/Receipts.lean ====
section
/-!
SUPPORT. Receipts: what a slip holds, what the tests of a composition attempt do, and a placement as one update.
-/
namespace Sys2Proof.Machine

set_option Elab.async false

/-! ## The slip (R141, R172) -/

theorem lineWords_length (ls : List Line) : (ls.flatMap lineWords).length = 8 * ls.length := by
  induction ls with
  | nil => rfl
  | cons l ls ih =>
    rw [List.flatMap_cons, List.length_append, ih, List.length_cons]
    simp [lineWords, dwordWords, showDWord]
    omega

/-- A receipt record has 38 words and 8 for each line. -/
theorem recordWords_length (n : Nat) (x : Session) (b : Bill) :
    (recordWords n x b).length = 38 + 8 * b.lines.length := by
  have a : (accountWords x.account).length = 9 := by cases x.account <;> simp [accountWords, fieldWords]
  have c : (codeWords x.voucher).length = 5 := by cases x.voucher <;> simp [codeWords, fieldWords]
  unfold recordWords
  simp only [List.length_append, lineWords_length]
  rw [a, c]
  simp [showDWord, dwordWords]

theorem xorHalves_zeros : ∀ k : Nat, xorHalves (List.replicate k 0) = (0, 0)
  | 0 => rfl
  | 1 => rfl
  | k + 2 => by rw [List.replicate_succ, List.replicate_succ]; unfold xorHalves; rw [xorHalves_zeros k]; rfl

/-- Zeros after a whole number of word pairs leave the check words as they are. -/
theorem xorHalves_append_zeros :
    ∀ (k : Nat) (l : List Word) (m : Nat), l.length = 2 * k → xorHalves (l ++ List.replicate m 0) = xorHalves l
  | 0, l, m, h => by rw [List.length_eq_zero_iff.1 (by omega : l.length = 0)]; exact xorHalves_zeros m
  | k + 1, l, m, h => by
    match l, h with
    | a :: b :: l, h =>
      show xorHalves (a :: b :: (l ++ _)) = _
      unfold xorHalves
      rw [xorHalves_append_zeros k l m (by simp at h; omega)]

/-- A slip that the record fits into: the record, zeros, and the record's check words. -/
theorem slipImage_eq (size n : Nat) (x : Session) (b : Bill) (h : 38 + 8 * b.lines.length ≤ size - 2) :
    slipImage size n x b = recordWords n x b ++ List.replicate (size - 2 - (recordWords n x b).length) 0
      ++ [(xorHalves (recordWords n x b)).1, (xorHalves (recordWords n x b)).2] := by
  have k := recordWords_length n x b
  have z := xorHalves_append_zeros (19 + 4 * b.lines.length) (recordWords n x b) (size - 2 - (recordWords n x b).length)
    (by omega)
  have e : (recordWords n x b ++ List.replicate size 0).take (size - 2)
      = recordWords n x b ++ List.replicate (size - 2 - (recordWords n x b).length) 0 := by
    generalize recordWords n x b = r at k
    rw [List.take_append, List.take_of_length_le (by omega), List.take_replicate]
    congr 2
    omega
  unfold slipImage
  dsimp only
  rw [e, z]

theorem slipImage_length (size n : Nat) (x : Session) (b : Bill) (h : 2 ≤ size) : (slipImage size n x b).length = size := by
  unfold slipImage
  dsimp only
  rw [List.length_append, List.length_take, List.length_append, List.length_replicate, List.length_cons,
    List.length_singleton]
  generalize (recordWords n x b).length = z
  omega

/-! ## A composition attempt (R137, R138) -/

/-- A wait for a slip that begins is counted and raises SLIPS. -/
theorem slipTest_eq (s : State) (ok : Bool) :
    s.slipTest ok = { s with
      rcpt.wantSlips := !ok
      rcpt.slipsOut := if ok = false ∧ s.rcpt.wantSlips = false then s.rcpt.slipsOut + 1 else s.rcpt.slipsOut
      xchg.attn := if ok = false ∧ s.rcpt.wantSlips = false then s.xchg.attn ||| Attention.slips.bit else s.xchg.attn } := by
  unfold State.slipTest State.raise
  cases ok with
  | true => rfl
  | false =>
    rw [if_neg (by decide)]
    by_cases h : s.rcpt.wantSlips = true
    · rw [if_pos h, if_neg (by rw [h]; decide), if_neg (by rw [h]; decide)]
      show s = { s with rcpt.wantSlips := true }
      rw [← h]
    · have k : s.rcpt.wantSlips = false := by simpa using h
      rw [if_neg h, if_pos ⟨rfl, k⟩, if_pos ⟨rfl, k⟩]
      rfl

/-- A wait for room that begins raises FULL. -/
theorem roomTest_eq (s : State) :
    s.roomTest = { s with
      rcpt.wantRoom := decide (s.unreadCount = 128)
      xchg.attn := if s.unreadCount = 128 ∧ s.rcpt.wantRoom = false then s.xchg.attn ||| Attention.full.bit
        else s.xchg.attn } := by
  unfold State.roomTest State.hasRoom State.raise
  by_cases h : s.unreadCount = 128
  · rw [if_neg (by simp [h])]
    by_cases k : s.rcpt.wantRoom = true
    · rw [if_pos k, if_neg (by rw [k]; simp), h]
      show s = { s with rcpt.wantRoom := true }
      rw [← k]
    · have k' : s.rcpt.wantRoom = false := by simpa using k
      rw [if_neg k, if_pos ⟨h, k'⟩, h]
      rfl
  · rw [if_pos (by simp [h]), if_neg (fun z => h z.1)]
    simp [h]

/-! ## The offer lists (R135) -/

/-- No entry is passed over when the one at the read index is not skipped. -/
theorem dropSkipped_of_head (r : Word) (l : List OfferCopy) (h : ∀ d, l.head? = some d → d.skip = false) :
    dropSkipped r l = (r, l) := by
  cases l with
  | nil => rfl
  | cons d l => unfold dropSkipped; rw [if_neg (by rw [h d rfl]; decide)]

/-- The offer at the read index is used up: the read index rises by one and is written. -/
theorem consumeOffer_eq (s : State) (long : Bool) (h : ∀ d, (s.offers long).copies[1]? = some d → d.skip = false) :
    s.consumeOffer long =
      { s.setOffers long ⟨(s.offers long).read + 1, (s.offers long).seen, (s.offers long).copies.drop 1⟩ with
        xchg.mem := s.xchg.mem.storeWords (offerBase long + 1) [(s.offers long).read + 1] } := by
  have hd : ∀ d, ((s.offers long).copies.drop 1).head? = some d → d.skip = false := by
    intro d hh
    apply h
    rw [← hh]
    cases (s.offers long).copies with
    | nil => rfl
    | cons a l => cases l <;> rfl
  have hne : ∀ r : Word, r + 1 ≠ r := by intro r e; bv_omega
  unfold State.consumeOffer State.settleOffers
  cases long
  all_goals
    dsimp only [State.setOffers, State.offers] at *
    simp only [reduceIte, Bool.false_eq_true] at *
    rw [dropSkipped_of_head _ _ hd]
    dsimp only
    rw [if_neg (hne _)]
    rfl

/-! ## Placement (R139, R142) -/

/-- A receipt number taken changes the Pricing Unit and ATTN alone. -/
theorem takeNumber_receipt_frame (s : State) (n : Nat) :
    ∃ p a, s.takeNumber .receipt n = { s with price := p, xchg.attn := a } := by
  unfold State.takeNumber State.askBlock State.blockImpossible State.raise State.askWrite
  dsimp only
  (repeat' split) <;> exact ⟨_, _, rfl⟩

theorem takeNumber_receipt_mem (s : State) (n : Nat) (m : Memory) :
    ({ s with xchg.mem := m } : State).takeNumber .receipt n = { s.takeNumber .receipt n with xchg.mem := m } := by
  unfold State.takeNumber State.askBlock State.blockImpossible State.raise State.askWrite
  dsimp only [State.numbers]
  split
  · split
    · rfl
    · unfold State.blockWaits State.setNumbers
      dsimp only
      split <;> rfl
  · rfl

/-- The state of a placement before its notices. -/
def placedReceipt (s : State) (x : Session) (long : Bool) (slip number : Nat) (bill : Bill) : State :=
  let l := s.offers long
  let m1 := s.xchg.mem.storeWords (offerBase long + 1) [l.read + 1]
  let m2 := m1.storeWords (slipBase slip) (slipImage (slipWords slip) number x bill)
  let m3 := m2.storeWords (receiptEntry s.rcpt.write) (natWord slip :: showDWord number ++ showDWord x.number)
  let m4 := m3.storeWords 0x0F00 [s.rcpt.write + 1]
  { (s.setOffers long ⟨l.read + 1, l.seen, l.copies.drop 1⟩).takeNumber .receipt number with
      xchg.mem := m4, rcpt.write := s.rcpt.write + 1, rcpt.unread := s.rcpt.unread ++ [⟨slip, number, x.number⟩],
      sess.table := s.sess.table.filter (fun y => decide (y.number ≠ x.number)),
      sess.vouchers := dropVoucher x.voucher s.sess.vouchers }

/-- A placement, with the notices that it gives. -/
theorem placeReceipt_eq (s : State) (x : Session) (long : Bool) (slip number : Nat) (bill : Bill) (hb : x.bill = some bill)
    (h : ∀ d, (s.offers long).copies[1]? = some d → d.skip = false) :
    s.placeReceipt x long slip number = (placedReceipt s x long slip number bill).noticesAtPlacement := by
  unfold State.placeReceipt
  rw [hb, consumeOffer_eq s long h]
  dsimp only [Option.getD_some]
  congr 1
  unfold placedReceipt
  dsimp only
  rw [takeNumber_receipt_mem]
  obtain ⟨p, a, e⟩ := takeNumber_receipt_frame
    (s.setOffers long ⟨(s.offers long).read + 1, (s.offers long).seen, (s.offers long).copies.drop 1⟩) number
  rw [e]
  unfold State.writeWords
  cases long <;> rfl

/-! ## Notices (R143) -/

/-- The unread count reaches the notice threshold at this placement. -/
def State.reachesThreshold (s : State) : Bool :=
  decide (s.site.settings.noticeLinger ≠ 0) && decide (s.site.settings.noticeThreshold ≤ s.unreadCount)
    && !s.rcpt.threshold

theorem noticesAtPlacement_eq (s : State) :
    s.noticesAtPlacement = { s with
      rcpt.noticeThreshold := s.site.settings.noticeThreshold
      rcpt.threshold := s.reachesThreshold || s.rcpt.threshold
      rcpt.linger := if s.site.settings.noticeLinger = 0 then s.rcpt.linger
        else if s.reachesThreshold = true then none
        else some (s.rcpt.linger.getD (s.elapsed + s.site.settings.noticeLinger))
      xchg.attn := if s.site.settings.noticeLinger = 0 ∨ s.reachesThreshold = true
        then s.xchg.attn ||| Attention.receipt.bit else s.xchg.attn } := by
  have hc : State.unreadCount { s with rcpt.noticeThreshold := s.site.settings.noticeThreshold } = s.unreadCount := rfl
  unfold State.noticesAtPlacement State.placementNotices State.raise
  dsimp only
  rw [hc]
  by_cases h : s.site.settings.noticeLinger = 0
  · rw [if_pos h]
    simp [State.reachesThreshold, h]
  · rw [if_neg h]
    by_cases k : s.site.settings.noticeThreshold ≤ s.unreadCount ∧ s.rcpt.threshold = false
    · rw [if_pos k]
      simp [State.reachesThreshold, h, k.1, k.2]
    · rw [if_neg k]
      have e : s.reachesThreshold = false := by
        by_contra c
        simp [State.reachesThreshold, h] at c
        exact k ⟨c.1, c.2⟩
      rw [e]
      simp [h]
      cases s.rcpt.linger <;> rfl

end Sys2Proof.Machine
end

