-- ==== Sys2Proof/Laws/Rounds.lean ====
section
/-!
SUPPORT. The numbers of a round: what water-filling gives out, the grant order, and the sums of a plan's grants.
-/
namespace Sys2Proof.Machine

set_option Elab.async false

/-! ## Water-filling (R74) -/
/-- The quanta that a list of places has taken. -/
def fillSum (l : List (Nat × Nat)) : Nat := (l.map (·.1)).sum

theorem giveOnes_sum (q : Nat) (l : List (Nat × Nat)) : fillSum (giveOnes q l) ≤ fillSum l + q := by
  induction l generalizing q with
  | nil => cases q <;> simp [giveOnes, fillSum]
  | cons p ps ih =>
    cases q with
    | zero => simp [giveOnes]
    | succ q =>
      unfold giveOnes; split
      · have := ih (q+1); simp [fillSum] at *; omega
      · have := ih q; simp [fillSum] at *; omega
theorem giveOnes_length (q : Nat) (l : List (Nat × Nat)) : (giveOnes q l).length = l.length := by
  induction l generalizing q with
  | nil => cases q <;> simp [giveOnes]
  | cons p ps ih =>
    cases q with
    | zero => simp [giveOnes]
    | succ q => unfold giveOnes; split <;> simp [ih]
theorem fillSum_step (o : Nat) (l : List (Nat × Nat)) :
    fillSum (l.map (fun p => (p.1 + min o p.2, p.2 - min o p.2))) = fillSum l + (l.map (fun p => min o p.2)).sum := by
  induction l with
  | nil => rfl
  | cons p ps ih => simp only [fillSum, List.map_cons, List.sum_cons] at *; omega

theorem min_sum_le (o : Nat) (l : List (Nat × Nat)) : (l.map (fun p => min o p.2)).sum ≤ o * (l.filter (fun p => decide (p.2 ≠ 0))).length := by
  induction l with
  | nil => simp
  | cons p ps ih =>
    by_cases h : p.2 = 0
    · simp [h] at *; omega
    · simp [h] at *; rw [Nat.mul_succ]; omega
theorem fillPasses_sum (fuel q : Nat) (l : List (Nat × Nat)) : fillSum (fillPasses fuel q l) ≤ fillSum l + q := by
  induction fuel generalizing q l with
  | zero => simp [fillPasses]
  | succ n ih =>
    unfold fillPasses; dsimp only
    split
    · omega
    · next h =>
      split
      · exact giveOnes_sum q l
      · refine (ih _ _).trans ?_
        set o := q / (l.filter (fun p => decide (p.2 ≠ 0))).length
        have e := fillSum_step o l
        have : (l.map (fun p => min o p.2)).sum ≤ q := (min_sum_le o l).trans (Nat.div_mul_le_self _ _)
        omega
theorem fillPasses_length (fuel q : Nat) (l : List (Nat × Nat)) : (fillPasses fuel q l).length = l.length := by
  induction fuel generalizing q l with
  | zero => simp [fillPasses]
  | succ n ih =>
    unfold fillPasses; dsimp only
    split
    · rfl
    · split
      · exact giveOnes_length q l
      · rw [ih]; simp
theorem waterFill_sum (q : Nat) (r : List Nat) : (waterFill q r).sum ≤ q := by
  have h0 : fillSum (r.map (fun r => (0, r))) = 0 := by
    unfold fillSum
    induction r with
    | nil => rfl
    | cons a l ih => simp only [List.map_cons, List.sum_cons] at *; omega
  have := fillPasses_sum (q + 1) q (r.map (fun r => (0, r)))
  unfold waterFill; unfold fillSum at this h0; omega
theorem waterFill_length (q : Nat) (r : List Nat) : (waterFill q r).length = r.length := by
  unfold waterFill; simp [fillPasses_length]

/-! ## The grant order (R68): every bay once -/
theorem grantOrder_nodup (flag : BayIx → Bool) (mark : BayIx) : (grantOrder flag mark).Nodup := by
  unfold grantOrder
  refine List.Nodup.append ?_ ?_ ?_
  · exact (List.nodup_finRange 24).filter _
  · refine List.Nodup.filter _ ?_
    exact (List.nodup_map_iff (fun a b h => by simpa using h)).2 (List.nodup_finRange 24)
  · intro a ha hb
    have h1 := (List.mem_filter.1 ha).2
    have h2 := (List.mem_filter.1 hb).2
    simp [h1] at h2
theorem mem_grantOrder (flag : BayIx → Bool) (mark b : BayIx) : b ∈ grantOrder flag mark := by
  unfold grantOrder
  rw [List.mem_append, List.mem_filter, List.mem_filter]
  cases h : flag b with
  | true => exact Or.inl ⟨List.mem_finRange b, rfl⟩
  | false =>
    refine Or.inr ⟨List.mem_map.2 ⟨b - (mark + 1), List.mem_finRange _, by abel⟩, rfl⟩

theorem zip_sum (old : BayIx → Nat) (l : List (BayIx × Bool)) (f : List Nat) :
   (((l.zip f).map (fun p => (p.1.1, ramp (old p.1.1) (1400 + 100 * p.2)))).map (·.2)).sum ≤ 1400 * l.length + 100 * f.sum := by
  induction l generalizing f with
  | nil => simp
  | cons a l ih =>
    cases f with
    | nil => simp
    | cons x f =>
      have := ih f
      have hr : ramp (old a.1) (1400 + 100 * x) ≤ 1400 + 100 * x := Nat.min_le_left _ _
      simp at *; omega

theorem nodup_sub_length (l k : List BayIx) (h : l.Nodup) (hs : ∀ x ∈ l, x ∈ k) : l.length ≤ k.length := by
  exact (List.Nodup.subperm h hs).length_le

/-- R67: a plan's grants sum to no more than its budget. -/
theorem plan_total (s : State) : s.plan.total ≤ s.plan.budget := by
  unfold Plan.total State.plan
  dsimp only
  set k := s.poweredBays.take (s.budgetNow / 1400)
  set left := s.budgetNow - 1400 * k.length
  set adm := if s.mayAdmit = true then s.allot.waitList.take (left / 1400) else []
  set quanta := (left - 1400 * adm.length) / 100
  refine (zip_sum _ _ _).trans ?_
  have hl : (s.servedBays k adm).length ≤ k.length + adm.length := by
    unfold State.servedBays; rw [List.length_map, ← List.length_append]
    apply nodup_sub_length
    · exact (grantOrder_nodup _ _).filter _
    · intro x hx
      have := (List.mem_filter.1 hx).2
      simpa [List.mem_append] using this
  have hk : 1400 * k.length ≤ s.budgetNow := by
    have : k.length ≤ s.budgetNow / 1400 := List.length_take_le _ _
    omega
  have ha : 1400 * adm.length ≤ left := by
    have : adm.length ≤ left / 1400 := by
      show (if s.mayAdmit = true then _ else []).length ≤ _
      split
      · exact List.length_take_le _ _
      · simp
    omega
  have hq := waterFill_sum quanta ((s.servedBays k adm).map (fun p => if p.2 = true then s.roomOf p.1 else 0))
  have : 100 * quanta ≤ left - 1400 * adm.length := Nat.mul_div_le _ _
  have hl2 : left = s.budgetNow - 1400 * k.length := rfl
  omega

theorem sum_at_one (l : List BayIx) (h : l.Nodup) (b : BayIx) (hb : b ∈ l) (w : Nat) :
    (l.map (fun c => if b = c then w else 0)).sum = w := by
  induction l with
  | nil => cases hb
  | cons c l ih =>
    rw [List.nodup_cons] at h
    rw [List.map_cons, List.sum_cons]
    rcases List.mem_cons.1 hb with hc | hc
    · subst hc
      rw [if_pos rfl]
      have z : l.map (fun c => if b = c then w else 0) = l.map (fun _ => 0) := by
        apply List.map_congr_left
        intro x hx
        rw [if_neg]
        rintro rfl
        exact h.1 hx
      rw [z]
      simp
    · rw [if_neg (by rintro rfl; exact h.1 hc), ih h.2 hc]
      omega

/-- The grants found for the 24 bays sum to the grants of the list. -/
theorem findsum (l : List (BayIx × Nat)) (h : (l.map (·.1)).Nodup) :
   ((List.finRange 24).map (fun b => match l.find? (fun x => decide (x.1 = b)) with | none => 0 | some x => x.2)).sum = (l.map (·.2)).sum := by
  induction l with
  | nil => simp
  | cons a l ih =>
    rw [List.map_cons, List.nodup_cons] at h
    have e : ∀ b : BayIx, (match (a :: l).find? (fun x => decide (x.1 = b)) with | none => 0 | some x => x.2) =
       (if a.1 = b then a.2 else 0) + (match l.find? (fun x => decide (x.1 = b)) with | none => 0 | some x => x.2) := by
      intro b
      by_cases hb : a.1 = b
      · have hn : l.find? (fun x => decide (x.1 = b)) = none := by
          rw [List.find?_eq_none]; intro x hx hc
          exact h.1 (List.mem_map.2 ⟨x, hx, by rw [hb]; simpa using hc⟩)
        simp [hb, hn]
      · simp [hb]
    have e2 : (fun b : BayIx => match (a :: l).find? (fun x => decide (x.1 = b)) with | none => 0 | some x => x.2) = fun b => (if a.1 = b then a.2 else 0) + (match l.find? (fun x => decide (x.1 = b)) with | none => 0 | some x => x.2) := funext e
    rw [e2, List.sum_map_add, ih h.2]
    simp only [List.map_cons, List.sum_cons]
    rw [sum_at_one _ (List.nodup_finRange 24) a.1 (List.mem_finRange _)]

theorem served_nodup (s : State) (k adm : List BayIx) (f : List Nat) (g : BayIx → Nat → Nat)
    (hf : f.length = (s.servedBays k adm).length) :
    ((((s.servedBays k adm).zip f).map (fun p => (p.1.1, g p.1.1 p.2))).map (·.1)).Nodup := by
  rw [List.map_map]
  have e : ((fun x : BayIx × Nat => x.1) ∘ fun p : (BayIx × Bool) × Nat => (p.1.1, g p.1.1 p.2))
      = (fun p : BayIx × Bool => p.1) ∘ Prod.fst := rfl
  rw [e, ← List.map_map, List.map_fst_zip (by omega)]
  unfold State.servedBays
  rw [List.map_map]
  have e2 : ((fun x : BayIx × Bool => x.1) ∘ fun b => (b, adm.contains b || decide ((s.bayOf b).state = .charging))) = id :=
    rfl
  rw [e2, List.map_id]
  exact (grantOrder_nodup _ _).filter _

/-- The grants that a plan decides for the 24 bays sum to its total. -/
theorem plan_grantSum (s : State) : ((List.finRange 24).map s.plan.grantOf).sum = s.plan.total := by
  unfold Plan.grantOf Plan.total
  refine findsum _ ?_
  unfold State.plan
  dsimp only
  exact served_nodup s _ _ _ (fun b n => ramp (s.grantOf b) (1400 + 100 * n)) (by rw [waterFill_length, List.length_map])

end Sys2Proof.Machine
end

