-- ==== Sys2Proof/Laws/Samples.lean ====
section
/-!
SUPPORT. The meter line: the bytes of a sample spell the sample, a run of bytes that spells one takes it, and a run that
completes none changes the receiver alone.
-/
namespace Sys2Proof.Machine

set_option Elab.async false

/-! ## Serving twice -/

/-- After the rounds and the store have been served, serving them again changes nothing. -/
theorem settleUnits_settleUnits (s : State) : s.settleUnits.settleUnits = s.settleUnits := by
  have k := wait_beginWrites s.runRounds.price.queue.length s.runRounds (le_refl _)
  have r : s.settleUnits.roundsAsked = 0 := k.2.trans (calm_runRounds s).roundsAsked
  show s.settleUnits.runRounds.serveStore = _
  rw [runRounds_of_none r]
  exact serveStore_of_wait k.1

theorem settle_settleUnits (s : State) : s.settleUnits.settle = s.settle := by
  show s.settleUnits.settleUnits.servePage = s.settleUnits.servePage
  rw [settleUnits_settleUnits]

/-! ## The bytes of a sample -/

theorem bytes_two (v : BitVec 16) (r : List Byte) :
    BitVec.ofNat 16 (payloadNat (bytesOf 2 v ++ r) 0 2) = v := by
  apply BitVec.eq_of_toNat_eq
  have h := v.isLt
  simp [payloadNat, bytesOf, List.range_succ, BitVec.extractLsb'_toNat, Nat.shiftRight_eq_div_pow]
  omega

theorem payloadNat_four (p : List Byte) (i : Nat) (v : BitVec 32) (h : (p.drop i).take 4 = bytesOf 4 v) :
    BitVec.ofNat 32 (payloadNat p i 4) = v := by
  apply BitVec.eq_of_toNat_eq
  have k := v.isLt
  simp [payloadNat, h, bytesOf, List.range_succ, BitVec.extractLsb'_toNat, Nat.shiftRight_eq_div_pow]
  omega

/-- The 24 bytes after the lead byte spell the sample (R48). -/
theorem sampleOfBytes_sampleData (m : SampleFrame) : sampleOfBytes (sampleData m ++ [m.check]) = m := by
  obtain ⟨seq, power, present, shop, feeder, canopy, flow, check⟩ := m
  unfold sampleOfBytes
  rw [SampleFrame.mk.injEq]
  refine ⟨?_, payloadNat_four _ _ _ rfl, rfl, payloadNat_four _ _ _ rfl, payloadNat_four _ _ _ rfl,
    payloadNat_four _ _ _ rfl, payloadNat_four _ _ _ rfl, rfl⟩
  simp only [sampleData, List.append_assoc]
  exact bytes_two seq _

theorem sampleData_length (m : SampleFrame) : (sampleData m).length = 23 := rfl

/-! ## The receiver (R49) -/

/-- Bytes inside a sample, the last of which is its 24th. -/
theorem spells_inside (got : List Byte) (bs : List Byte) (h : got.length + bs.length = 24) (hb : bs ≠ []) :
    (Receiver.inside got).spells (bs.map (fun b => ⟨b, false⟩)) = some (sampleOfBytes (got ++ bs)) := by
  induction bs generalizing got with
  | nil => exact (hb rfl).elim
  | cons b bs ih =>
    simp only [List.map_cons, Receiver.spells, Receiver.take]
    by_cases hl : 23 ≤ got.length
    · rw [if_pos hl]
      have : bs = [] := List.length_eq_zero_iff.1 (by simp only [List.length_cons] at h; omega)
      subst this
      rfl
    · rw [if_neg hl]
      have hb' : bs ≠ [] := by rintro rfl; simp only [List.length_cons, List.length_nil] at h; omega
      have k := ih (got ++ [b]) (by simp only [List.length_append, List.length_cons, List.length_nil] at h ⊢; omega) hb'
      rw [List.append_assoc] at k
      exact k

/-- The line bytes of a sample spell it to a waiting receiver (R48, R49). -/
theorem spells_sampleLine (m : SampleFrame) : Receiver.waiting.spells (sampleLine m) = some m := by
  have k := spells_inside [] (sampleData m ++ [m.check]) (by rw [List.length_append, sampleData_length]; rfl) (by simp)
  rw [List.nil_append, sampleOfBytes_sampleData] at k
  simp only [sampleLine, Receiver.spells, Receiver.take]
  rw [if_pos ⟨trivial, trivial⟩]
  exact k

/-- A run of bytes that spells a sample takes it. -/
theorem takeBytes_of_spells (bs : List MeterByte) (m : SampleFrame) (s : State)
    (h : s.meter.receiver.spells bs = some m) : State.takeBytes bs s = (s.takeSample m).settleUnits := by
  induction bs generalizing s with
  | nil => cases h
  | cons b bs ih =>
    unfold Receiver.spells at h
    unfold State.takeBytes State.takeByte
    generalize s.meter.receiver.take b = r at h
    obtain ⟨r, o⟩ := r
    cases o with
    | none => exact ih _ h
    | some p =>
      dsimp only at h ⊢
      split at h
      · next hb =>
        subst hb
        have e := Option.some.inj h
        rw [e]
        rfl
      · cases h

/-- A run of bytes inside a sample that does not reach its 24th byte is kept. -/
theorem takeBytes_inside (bs : List MeterByte) (got : List Byte) (s : State) (h : s.meter.receiver = .inside got)
    (hl : got.length + bs.length < 24) :
    State.takeBytes bs s = { s with meter.receiver := .inside (got ++ bs.map (·.value)) } := by
  induction bs generalizing s got with
  | nil =>
    rw [List.map_nil, List.append_nil, ← h]
    rfl
  | cons b bs ih =>
    have hn : ¬ 23 ≤ got.length := by simp only [List.length_cons] at hl; omega
    have e : s.takeByte b = { s with meter.receiver := .inside (got ++ [b.value]) } := by
      unfold State.takeByte Receiver.take
      rw [h]
      dsimp only
      rw [if_neg hn]
    show State.takeBytes bs (s.takeByte b) = _
    rw [e, ih (got ++ [b.value]) _ rfl (by simp only [List.length_append, List.length_cons, List.length_nil] at hl ⊢; omega),
      List.map_cons, List.append_assoc]
    rfl

end Sys2Proof.Machine
end

