-- ==== Sys2Proof/Laws/Slots.lean ====
section
/-!
SUPPORT. Slots: what the take of a slot finds after the host has filled it, the visit that follows, and what the writing
of an answer leaves in the memory.
-/
namespace Sys2Proof.Machine

set_option Elab.async false

theorem padBody_length (ws : List Word) : (padBody ws).length = 24 := by simp [padBody]

theorem requestWords_length (k : Kind) (t : Word) (body : List Word) : (requestWords k t body).length = 29 := by
  simp [requestWords, padBody_length]

theorem Reply.words_length (r : Reply) : r.words.length = 24 := by cases r <;> exact padBody_length _

theorem Reply.state_ne (r : Reply) : r.state ≠ slotFilled ∧ r.state ≠ slotTaken := by
  cases r
  · exact ⟨(by decide : slotDone ≠ slotFilled), (by decide : slotDone ≠ slotTaken)⟩
  · exact ⟨(by decide : slotRefused ≠ slotFilled), (by decide : slotRefused ≠ slotTaken)⟩

theorem Kind.ofCode_code (k : Kind) : Kind.ofCode k.code = some k := by cases k <;> rfl

theorem Kind.code_eq {k l : Kind} : k.code = l.code ↔ k = l := by
  constructor
  · intro h
    have := congrArg Kind.ofCode h
    rw [Kind.ofCode_code, Kind.ofCode_code] at this
    exact Option.some.inj this
  · rintro rfl; rfl

/-! ## A filled slot -/

/-- The words of a slot that the host has filled (R170). -/
theorem word_fillSlot (s : State) (i : Fin 48) (k : Kind) (t : Word) (body : List Word) (n : Nat) (hn : n < 29) :
    (s.fillSlot i k t body).xchg.mem.word (slotBase i + n) = (requestWords k t body).getD n 0 := by
  show (s.xchg.mem.storeWords _ _).word _ = _
  rw [Memory.word_storeWords, requestWords_length, if_pos ⟨by omega, by omega⟩]
  congr 1
  omega

theorem body_fillSlot (s : State) (i : Fin 48) (k : Kind) (t : Word) (body : List Word) :
    (s.fillSlot i k t body).xchg.mem.words (slotBase i + 5) 24 = padBody body := by
  show (s.xchg.mem.storeWords _ _).words _ _ = _
  rw [Memory.words_storeWords _ _ _ _ _ (by omega) (by rw [requestWords_length])]
  have e : slotBase i + 5 - slotBase i = 5 := by omega
  rw [e]
  show (padBody body).take 24 = _
  exact List.take_of_length_le (by rw [padBody_length])

/-- What the take copies from a filled slot (R152, step 1). -/
def Taken.ofFill (s : State) (i : Fin 48) (k : Kind) (t : Word) (body : List Word) : Taken :=
  { slot := i, kind := k.code, complement := ~~~k.code, ticket := t, check := xorWords (padBody body),
    body := padBody body,
    table := if k.code = Kind.setSite.code ∨ k.code = Kind.setTariff.code then
        (s.fillSlot i k t body).tableAt (padBody body) else [] }

theorem takenAt_fillSlot (s : State) (i : Fin 48) (k : Kind) (t : Word) (body : List Word) :
    (s.fillSlot i k t body).takenAt i = Taken.ofFill s i k t body := by
  unfold State.takenAt Taken.ofFill
  have hb : (s.fillSlot i k t body).mem.words (slotBase i + 5) 24 = padBody body := body_fillSlot s i k t body
  have h := fun n (hn : n < 29) => word_fillSlot s i k t body n hn
  have h1 : (s.fillSlot i k t body).mem.word (slotBase i + 1) = k.code := h 1 (by decide)
  have h2 : (s.fillSlot i k t body).mem.word (slotBase i + 2) = ~~~k.code := h 2 (by decide)
  have h3 : (s.fillSlot i k t body).mem.word (slotBase i + 3) = t := h 3 (by decide)
  have h4 : (s.fillSlot i k t body).mem.word (slotBase i + 4) = xorWords (padBody body) := h 4 (by decide)
  simp only [hb, h1, h2, h3, h4]

theorem state_fillSlot (s : State) (i : Fin 48) (k : Kind) (t : Word) (body : List Word) :
    (s.fillSlot i k t body).mem.word (slotBase i) = slotFilled :=
  word_fillSlot s i k t body 0 (by decide)

theorem isLong_ofFill (s : State) (i : Fin 48) (k : Kind) (t : Word) (body : List Word) :
    (Taken.ofFill s i k t body).isLong = k.isLong := by
  simp [Taken.isLong, Taken.ofFill, Kind.ofCode_code]

/-- A short request is taken and carried out (R152). -/
theorem deliver_short (s : State) (i : Fin 48) (k : Kind) (t : Word) (body : List Word) (hk : k.isLong = false) :
    s.deliver i k t body = ((s.fillSlot i k t body).markTaken i).carry (Taken.ofFill s i k t body) none := by
  unfold State.deliver State.visitSlot State.takeSlot
  rw [if_pos (state_fillSlot s i k t body), takenAt_fillSlot]
  dsimp only
  rw [isLong_ofFill, hk]
  rfl

/-- A long request takes a place and is carried out (R152). -/
theorem deliver_long (s : State) (i : Fin 48) (k : Kind) (t : Word) (body : List Word) (hk : k.isLong = true) (p : Fin 8)
    (hp : s.freePlace = some p) :
    s.deliver i k t body = (((s.fillSlot i k t body).markTaken i).setPlace p
      (some ⟨i, t, k.code, padBody body⟩)).carry (Taken.ofFill s i k t body) (some p) := by
  unfold State.deliver State.visitSlot State.takeSlot
  rw [if_pos (state_fillSlot s i k t body), takenAt_fillSlot]
  have hp' : (s.fillSlot i k t body).freePlace = some p := hp
  dsimp only
  rw [isLong_ofFill, hk, if_pos rfl, hp']
  rfl

/-- A long request finds the holder full: its slot stays FILLED and nothing else changes (R152). -/
theorem deliver_deferred (s : State) (i : Fin 48) (k : Kind) (t : Word) (body : List Word) (hk : k.isLong = true)
    (hp : s.freePlace = none) : s.deliver i k t body = s.fillSlot i k t body := by
  unfold State.deliver State.visitSlot State.takeSlot
  rw [if_pos (state_fillSlot s i k t body), takenAt_fillSlot]
  have hp' : (s.fillSlot i k t body).freePlace = none := hp
  dsimp only
  rw [isLong_ofFill, hk, if_pos rfl, hp']

/-- Step 1 and 2 of R153 pass for a request that the host has filled as R170 wants it. -/
theorem checkTaken_ofFill (u s : State) (i : Fin 48) (k : Kind) (t : Word) (body : List Word) :
    u.checkTaken (Taken.ofFill s i k t body) =
      if (Taken.ofFill s i k t body).malformed k then .inl .malformed
      else match u.kindRefusal k (Taken.ofFill s i k t body) with
        | some r => .inl r
        | none => .inr k := by
  unfold State.checkTaken
  rw [if_neg (by simp [Taken.ofFill])]
  have h : Kind.ofCode (Taken.ofFill s i k t body).kind = some k := Kind.ofCode_code k
  generalize Kind.ofCode (Taken.ofFill s i k t body).kind = o at h ⊢
  subst h
  rfl

/-- A request that R153 refuses is answered at once. -/
theorem carry_refused (u : State) (q : Taken) (place : Option (Fin 8)) (r : Reason) (h : u.checkTaken q = .inl r) :
    u.carry q place = u.reply q place (.refused r) := by
  unfold State.carry; rw [h]

/-- A request that passes R153 goes to its unit. -/
theorem carry_served (u : State) (q : Taken) (place : Option (Fin 8)) (k : Kind) (h : u.checkTaken q = .inr k) :
    u.carry q place = u.serve k q place := by
  unfold State.carry; rw [h]

/-! ## The writing of an answer (R155) -/

/-- The memory after an answer has been written into a slot. -/
def answerMem (m : Memory) (i : Fin 48) (r : Reply) : Memory :=
  (m.storeWords (slotBase i + 5) r.words).storeWords (slotBase i) [r.state]

/-- A slot that still holds the request. -/
theorem answerSlot_taken (s : State) (i : Fin 48) (t : Word) (r : Reply)
    (h1 : s.xchg.mem.word (slotBase i) = slotTaken) (h2 : s.xchg.mem.word (slotBase i + 3) = t) :
    s.answerSlot i t r = { s with xchg.mem := answerMem s.xchg.mem i r,
                                  xchg.attn := s.xchg.attn ||| Attention.slot.bit } := by
  unfold State.answerSlot
  rw [if_pos ⟨h1, h2⟩]
  rfl

/-- A slot that does not: the answer is lost. -/
theorem answerSlot_lost (s : State) (i : Fin 48) (t : Word) (r : Reply)
    (h : s.xchg.mem.word (slotBase i) ≠ slotTaken ∨ s.xchg.mem.word (slotBase i + 3) ≠ t) :
    s.answerSlot i t r = { s with xchg.lost := s.xchg.lost + 1 } := by
  unfold State.answerSlot
  rw [if_neg]
  rintro ⟨a, b⟩
  exact h.elim (fun c => c a) (fun c => c b)

theorem answerPlace_held (s : State) (p : Fin 8) (h : Held) (r : Reply) (hp : s.xchg.holder[p] = some h) :
    s.answerPlace p r = (s.answerSlot h.slot h.ticket r).setPlace p none := by
  unfold State.answerPlace; rw [hp]

/-- The memory after a slot was filled and taken. -/
def takenMem (m : Memory) (i : Fin 48) (k : Kind) (t : Word) (body : List Word) : Memory :=
  (m.storeWords (slotBase i) (requestWords k t body)).storeWords (slotBase i) [slotTaken]

theorem mem_markTaken_fill (s : State) (i : Fin 48) (k : Kind) (t : Word) (body : List Word) :
    ((s.fillSlot i k t body).markTaken i) = { s with xchg.mem := takenMem s.xchg.mem i k t body, xchg.lastSlot := i } :=
  rfl

theorem word_takenMem (m : Memory) (i : Fin 48) (k : Kind) (t : Word) (body : List Word) (n : Nat) (hn : n < 29) :
    (takenMem m i k t body).word (slotBase i + n) = if n = 0 then slotTaken else (requestWords k t body).getD n 0 := by
  unfold takenMem
  rw [Memory.word_storeWords, Memory.word_storeWords, requestWords_length]
  by_cases h : n = 0
  · subst h; simp
  · rw [if_neg (by simp; omega), if_pos (by omega), if_neg h]
    congr 1
    omega

theorem state_takenMem (m : Memory) (i : Fin 48) (k : Kind) (t : Word) (body : List Word) :
    (takenMem m i k t body).word (slotBase i) = slotTaken := word_takenMem m i k t body 0 (by decide)

theorem ticket_takenMem (m : Memory) (i : Fin 48) (k : Kind) (t : Word) (body : List Word) :
    (takenMem m i k t body).word (slotBase i + 3) = t := word_takenMem m i k t body 3 (by decide)

theorem read_takenMem (m : Memory) (i : Fin 48) (k : Kind) (t : Word) (body : List Word) (a : Nat)
    (h : a < 2 * slotBase i ∨ 2 * (slotBase i + 29) ≤ a) : (takenMem m i k t body).read a = m.read a := by
  unfold takenMem
  rw [Memory.read_storeWords_of_outside _ _ _ _ (by simp; omega),
    Memory.read_storeWords_of_outside _ _ _ _ (by rw [requestWords_length]; omega)]

theorem read_answerMem (m : Memory) (i : Fin 48) (r : Reply) (a : Nat)
    (h : a < 2 * slotBase i ∨ 2 * (slotBase i + 29) ≤ a) : (answerMem m i r).read a = m.read a := by
  unfold answerMem
  rw [Memory.read_storeWords_of_outside _ _ _ _ (by simp; omega),
    Memory.read_storeWords_of_outside _ _ _ _ (by rw [Reply.words_length]; omega)]

theorem state_answerMem (m : Memory) (i : Fin 48) (r : Reply) : (answerMem m i r).word (slotBase i) = r.state := by
  unfold answerMem
  rw [Memory.word_storeWords, if_pos (by simp)]
  simp

theorem ticket_answerMem (m : Memory) (i : Fin 48) (r : Reply) :
    (answerMem m i r).word (slotBase i + 3) = m.word (slotBase i + 3) := by
  unfold answerMem
  rw [Memory.word_storeWords, if_neg (by simp), Memory.word_storeWords, if_neg (by omega)]

theorem body_answerMem (m : Memory) (i : Fin 48) (r : Reply) :
    (answerMem m i r).words (slotBase i + 5) 24 = r.words := by
  unfold answerMem
  rw [Memory.words_storeWords_apart _ _ _ _ _ (by right; simp),
    Memory.words_storeWords _ _ _ _ _ (by omega) (by simp [Reply.words_length]), Nat.sub_self, List.drop_zero]
  exact List.take_of_length_le (by rw [Reply.words_length])

/-! ## A request that the host filled: refused, or handed to its unit -/

/-- A state with a slot filled and taken (R152). -/
def State.marked (s : State) (i : Fin 48) (k : Kind) (t : Word) (body : List Word) : State :=
  { s with xchg.mem := takenMem s.xchg.mem i k t body, xchg.lastSlot := i }

/-- Steps 3 to 5 of R153 pass one by one. -/
theorem kindRefusal_none {u : State} {k : Kind} {q : Taken} (h3 : u.runForbids k = none) (h4 : u.outOfRange k q = none)
    (h5 : u.lockForbids k q = false) : u.kindRefusal k q = none := by
  unfold State.kindRefusal
  rw [h3]
  dsimp only
  rw [h4]
  dsimp only
  rw [h5]
  rfl

theorem runForbids_halted {u : State} {k : Kind} (h : u.site.run = .halted) (hk : k.inHalted = true) :
    u.runForbids k = none := by
  unfold State.runForbids; rw [h]; dsimp only; rw [hk]; rfl

theorem runForbids_run {u : State} {k : Kind} (h : u.site.run = .run) (hk : k ≠ .setCounters) :
    u.runForbids k = none := by
  unfold State.runForbids; rw [h]; dsimp only; unfold failIf; rw [if_neg (by simpa using hk)]

theorem runForbids_any {u : State} {k : Kind} (hh : k.inHalted = true) (hk : k ≠ .setCounters) :
    u.runForbids k = none := by
  cases h : u.site.run with
  | halted => exact runForbids_halted h hh
  | run => exact runForbids_run h hk

theorem lockForbids_none {u : State} {k : Kind} {q : Taken} (h : k ≠ .setSite ∧ k ≠ .setTariff ∧ k ≠ .setClock) :
    u.lockForbids k q = false := by
  unfold State.lockForbids
  cases k <;> simp at h ⊢

theorem deliver_short_served (s : State) (i : Fin 48) (k : Kind) (t : Word) (body : List Word) (hk : k.isLong = false)
    (hm : (Taken.ofFill s i k t body).malformed k = false)
    (hr : (s.marked i k t body).kindRefusal k (Taken.ofFill s i k t body) = none) :
    s.deliver i k t body = (s.marked i k t body).serve k (Taken.ofFill s i k t body) none := by
  rw [deliver_short s i k t body hk]
  show (s.marked i k t body).carry _ _ = _
  apply carry_served
  rw [checkTaken_ofFill, if_neg (by rw [hm]; decide), hr]

theorem deliver_long_served (s : State) (i : Fin 48) (k : Kind) (t : Word) (body : List Word) (hk : k.isLong = true)
    (p : Fin 8) (hp : s.freePlace = some p) (hm : (Taken.ofFill s i k t body).malformed k = false)
    (hr : (s.marked i k t body).kindRefusal k (Taken.ofFill s i k t body) = none) :
    s.deliver i k t body =
      ((s.marked i k t body).setPlace p (some (heldAs i t k body))).serve k (Taken.ofFill s i k t body) (some p) := by
  rw [deliver_long s i k t body hk p hp]
  show ((s.marked i k t body).setPlace p _).carry _ _ = _
  apply carry_served
  rw [checkTaken_ofFill, if_neg (by rw [hm]; decide)]
  have h : ((s.marked i k t body).setPlace p (some ⟨i, t, k.code, padBody body⟩)).kindRefusal k
      (Taken.ofFill s i k t body) = none := hr
  rw [h]

theorem deliver_short_refused (s : State) (i : Fin 48) (k : Kind) (t : Word) (body : List Word)
    (hk : k.isLong = false) (r : Reason) (hm : (Taken.ofFill s i k t body).malformed k = false)
    (hr : (s.marked i k t body).kindRefusal k (Taken.ofFill s i k t body) = some r) :
    s.deliver i k t body = (s.marked i k t body).answerSlot i t (.refused r) := by
  rw [deliver_short s i k t body hk]
  show (s.marked i k t body).carry _ _ = _
  rw [carry_refused _ _ _ r]
  · rfl
  rw [checkTaken_ofFill, if_neg (by rw [hm]; decide), hr]

theorem holder_of_freePlace {s : State} {p : Fin 8} (hp : s.freePlace = some p) : s.xchg.holder[p] = none := by
  have h := List.find?_some hp
  simpa using h

/-- The answer into the slot of the request in hand, whose words stand as they were taken. -/
theorem answer_own (u : State) (m : Memory) (i : Fin 48) (k : Kind) (t : Word) (body : List Word) (r : Reply)
    (hu : u.xchg.mem = takenMem m i k t body) :
    u.answerSlot i t r = { u with xchg.mem := answerMem u.xchg.mem i r, xchg.attn := u.xchg.attn ||| Attention.slot.bit }
      ∧ AnswerIn (answerMem u.xchg.mem i r) i t r
      ∧ ∀ a, outsideSlot i a → (answerMem u.xchg.mem i r).read a = m.read a := by
  refine ⟨answerSlot_taken u i t r (by rw [hu, state_takenMem]) (by rw [hu, ticket_takenMem]),
    ⟨state_answerMem _ _ _, ?_, body_answerMem _ _ _⟩, fun a ha => ?_⟩
  · rw [ticket_answerMem, hu, ticket_takenMem]
  · rw [read_answerMem _ _ _ _ ha, hu, read_takenMem _ _ _ _ _ _ ha]

theorem takenIn_takenMem (m : Memory) (i : Fin 48) (k : Kind) (t : Word) (body : List Word) :
    TakenIn (takenMem m i k t body) i t := ⟨state_takenMem _ _ _ _ _, ticket_takenMem _ _ _ _ _⟩

/-- The two words of a wide quantity give it back. -/
theorem dword_join (d : DWord) : d.extractLsb' 16 16 ++ d.extractLsb' 0 16 = d := by
  ext i hi
  simp only [BitVec.getElem_append, BitVec.getElem_extractLsb']
  by_cases h : i < 16
  · simp [h, BitVec.getLsbD_eq_getElem hi]
  · simp only [h, dite_false, show 16 + (i - 16) = i by omega, BitVec.getLsbD_eq_getElem hi]

end Sys2Proof.Machine
end

