-- ==== Sys2Proof/Laws/Tables.lean ====
section
/-!
SUPPORT. What the part reads from the words that the host writes for a request: the tables of SET_SITE and SET_TARIFF and
the byte fields of a body come back as they were given.
-/
namespace Sys2Proof.Machine

set_option Elab.async false

/-! ## SET_SITE -/

theorem natDWord_toNat (n : Nat) (h : n < 4294967296) :
    (dwordOf ((BitVec.ofNat 32 n).extractLsb' 16 16) ((BitVec.ofNat 32 n).extractLsb' 0 16)).toNat = n := by
  unfold dwordOf
  rw [dword_join, BitVec.toNat_ofNat]
  exact Nat.mod_eq_of_lt h

theorem natWord_toNat (n : Nat) (h : n < 65536) : (natWord n).toNat = n := by
  unfold natWord
  rw [BitVec.toNat_ofNat]
  exact Nat.mod_eq_of_lt h

/-- The 27 words of a SET_SITE table (R170). -/
theorem siteTable_length (t : SiteSettings) : (siteTable t).length = 27 := by
  simp [siteTable, sealTable, settingsWords, natDWord, dwordWords]

/-- The settings of 27 words. -/
theorem settingsOf_words (a0 a1 a2 a3 a4 a5 a6 a7 a8 a9 a10 a11 a12 a13
    a14 a15 a16 a17 a18 a19 a20 a21 a22 a23 a24 a25 a26 : Word) :
    settingsOf [a0, a1, a2, a3, a4, a5, a6, a7, a8, a9, a10, a11, a12, a13, a14, a15, a16, a17, a18, a19, a20, a21, a22, a23, a24, a25, a26] =
      ⟨(dwordOf a0 a1).toNat, (dwordOf a2 a3).toNat, (dwordOf a4 a5).toNat,
        (dwordOf a6 a7).toNat, (dwordOf a8 a9).toNat, (dwordOf a10 a11).toNat, a12.toNat, a13.toNat,
        (dwordOf a14 a15).toNat, (dwordOf a16 a17).toNat, a18.toNat, a19.toNat, a20.toNat, a21.toNat, a22.toNat, a23.toNat,
        dwordOf a24 a25⟩ := rfl

/-- The settings that a SET_SITE table gives. -/
theorem settingsOf_siteTable (t : SiteSettings) (h : t.wellFormed = true) : settingsOf (siteTable t) = t := by
  simp only [SiteSettings.wellFormed, Bool.and_eq_true, decide_eq_true_eq] at h
  unfold siteTable sealTable
  generalize xorWords (settingsWords t) = x
  simp only [settingsWords, natDWord, dwordWords, List.cons_append, List.nil_append, settingsOf_words]
  simp only [natWord_toNat, natDWord_toNat, h]
  unfold dwordOf
  rw [dword_join]

/-- A table closed by its check word passes the check (R170). -/
theorem sealed_sealTable (ws : List Word) : sealed (sealTable ws) = true := by
  unfold sealed sealTable
  simp

/-! ## SET_TARIFF -/

theorem bandWords_length (b : Band) : (bandWords b).length = 5 := rfl

theorem flatMap_bandWords_length (bands : List Band) : (bands.flatMap bandWords).length = 5 * bands.length := by
  induction bands with
  | nil => rfl
  | cons b bs ih => simp only [List.flatMap_cons, List.length_append, ih, bandWords_length, List.length_cons]; omega

/-- The 2 + 5 × count words of a SET_TARIFF table (R170). -/
theorem tariffTable_length (bands : List Band) : (tariffTable bands).length = 2 + 5 * bands.length := by
  unfold tariffTable sealTable bandsWords
  simp only [List.length_append, List.length_cons, flatMap_bandWords_length, List.length_nil]
  omega

/-- Word `j` of band `i` in the words of the bands. -/
theorem flatMap_bandWords_getD (bands : List Band) (i j : Nat) (hj : j < 5) (tail : List Word) (h : i < bands.length) :
    (bands.flatMap bandWords ++ tail).getD (5 * i + j) 0 = (bandWords bands[i]).getD j 0 := by
  induction bands generalizing i with
  | nil => cases h
  | cons b bs ih =>
    cases i with
    | zero =>
      simp only [List.flatMap_cons, List.append_assoc, Nat.mul_zero, Nat.zero_add, List.getElem_cons_zero]
      rw [List.getD_append]
      rw [bandWords_length]; exact hj
    | succ i =>
      simp only [List.flatMap_cons, List.append_assoc, List.getElem_cons_succ]
      rw [List.getD_append_right _ _ _ _ (by rw [bandWords_length]; omega), bandWords_length]
      have e : 5 * (i + 1) + j - 5 = 5 * i + j := by omega
      rw [e]
      exact ih i (Nat.lt_of_succ_lt_succ h)

/-- The flags of the bands as one number, band 1 in bit 0. -/
def flagBits (bands : List Band) : Nat := bands.foldr (fun b acc => (if b.topUp then 1 else 0) + 2 * acc) 0

theorem flagBits_lt (bands : List Band) : flagBits bands < 2 ^ bands.length := by
  induction bands with
  | nil => decide
  | cons b bs ih =>
    show (if b.topUp then 1 else 0) + 2 * flagBits bs < 2 ^ (bs.length + 1)
    rw [Nat.pow_succ]
    split <;> omega

theorem flagBits_testBit (bands : List Band) (i : Nat) (h : i < bands.length) :
    (flagBits bands).testBit i = bands[i].topUp := by
  induction bands generalizing i with
  | nil => cases h
  | cons b bs ih =>
    have e : flagBits (b :: bs) = 2 * flagBits bs + (if b.topUp then 1 else 0) := Nat.add_comm _ _
    rw [e]
    cases i with
    | zero => rw [Nat.testBit_zero]; cases hb : b.topUp <;> simp [hb]
    | succ i =>
      rw [Nat.testBit_succ]
      have d : (2 * flagBits bs + (if b.topUp then 1 else 0)) / 2 = flagBits bs := by split <;> omega
      rw [d]
      exact ih i (Nat.lt_of_succ_lt_succ h)

theorem bandCountWord_eq (bands : List Band) (h : bands.length ≤ 8) :
    bandCountWord bands = BitVec.ofNat 16 (bands.length + 256 * flagBits bands) := by
  unfold bandCountWord natWord
  rw [List.take_of_length_le h, Nat.mod_eq_of_lt (by omega)]
  rfl

theorem bandCount_bandCountWord (bands : List Band) (h : bands.length ≤ 8) :
    bandCount (bandCountWord bands) = bands.length := by
  rw [bandCountWord_eq bands h]
  unfold bandCount
  rw [BitVec.extractLsb'_toNat, BitVec.toNat_ofNat]
  simp only [Nat.shiftRight_zero]
  omega

theorem bandCountWord_flag (bands : List Band) (h : bands.length ≤ 8) (i : Nat) (hi : i < bands.length) :
    (bandCountWord bands).getLsbD (8 + i) = bands[i].topUp := by
  rw [bandCountWord_eq bands h, BitVec.getLsbD_ofNat]
  have e : bands.length + 256 * flagBits bands = 2 ^ 8 * flagBits bands + bands.length := by omega
  rw [e, Nat.testBit_two_pow_mul_add _ (by omega), if_neg (by omega), Nat.add_sub_cancel_left,
    flagBits_testBit bands i hi]
  simp
  omega

/-- The bands that a SET_TARIFF table of at most 8 bands gives. -/
theorem bandsOf_tariffTable (bands : List Band) (h : bands.length ≤ 8) (hf : ∀ b ∈ bands, b.wellFormed = true) :
    bandsOf (tariffTable bands) = bands := by
  have first : bodyWord (tariffTable bands) 0 = bandCountWord bands := rfl
  have rest : ∀ i (hi : i < bands.length) j, j < 5 →
      bodyWord (tariffTable bands) (1 + 5 * i + j) = (bandWords bands[i]).getD j 0 := by
    intro i hi j hj
    have e : 1 + 5 * i + j = (5 * i + j) + 1 := by omega
    rw [e]
    exact flatMap_bandWords_getD bands i j hj _ hi
  unfold bandsOf
  rw [first, bandCount_bandCountWord bands h]
  refine List.ext_getElem (by simp) fun i h1 h2 => ?_
  rw [List.getElem_map, List.getElem_range]
  unfold bandOf
  simp only
  rw [rest i h2 0 (by omega), rest i h2 1 (by omega), rest i h2 2 (by omega), rest i h2 3 (by omega),
    rest i h2 4 (by omega), first, bandCountWord_flag bands h i h2]
  have w := hf bands[i] (List.getElem_mem h2)
  unfold Band.wellFormed at w
  simp only [Bool.and_eq_true, decide_eq_true_eq] at w
  obtain ⟨⟨⟨⟨w0, w1⟩, w2⟩, w3⟩, w4⟩ := w
  have k : decide (i < 8) = true := by simp; omega
  generalize bands[i] = b at *
  cases b
  simp only [Band.mk.injEq]
  exact ⟨natWord_toNat _ w0, natWord_toNat _ w1, natWord_toNat _ w2, natWord_toNat _ w3, natWord_toNat _ w4, by
    rw [k]; exact Bool.true_and _⟩

/-- Bands in range fit their words (section 7.2). -/
theorem wellFormed_of_inRange (b : Band) (h : Machine.Band.inRange b = true) : b.wellFormed = true := by
  unfold Machine.Band.inRange at h
  unfold Band.wellFormed
  simp only [Bool.and_eq_true, decide_eq_true_eq] at h ⊢
  omega

/-- A table in a host area lies in the memory (R169). -/
theorem fits_of_inHostArea (offset n : Nat) (h : inHostArea offset n = true) : offset + n ≤ 0x8000 := by
  unfold inHostArea at h
  simp only [Bool.or_eq_true, Bool.and_eq_true, decide_eq_true_eq] at h
  omega

/-! ## Byte fields -/

/-- Two halves of a field give it back. -/
theorem halves_join {n : Nat} (v : BitVec (n + n)) : (v.extractLsb' n n ++ v.extractLsb' 0 n : BitVec (n + n)) = v := by
  ext i hi
  simp only [BitVec.getElem_append, BitVec.getElem_extractLsb']
  by_cases h : i < n
  · simp [h, BitVec.getLsbD_eq_getElem hi]
  · simp only [h, dite_false, show n + (i - n) = i by omega, BitVec.getLsbD_eq_getElem hi]

theorem part_of_part {n : Nat} (v : BitVec n) (a b c d : Nat) (h : b + d ≤ c) :
    (v.extractLsb' a c).extractLsb' b d = v.extractLsb' (a + b) d := by
  ext i hi
  simp only [BitVec.getElem_extractLsb', BitVec.getLsbD_extractLsb']
  rw [Nat.add_assoc]
  simp
  omega

/-- A voucher code in its four words. -/
theorem code_join (c : BitVec 64) :
    ((c.extractLsb' 48 16 ++ c.extractLsb' 32 16) ++ (c.extractLsb' 16 16 ++ c.extractLsb' 0 16) : BitVec 64) = c := by
  have h1 := halves_join (n := 16) (c.extractLsb' 32 32)
  have h2 := halves_join (n := 16) (c.extractLsb' 0 32)
  rw [part_of_part _ _ _ _ _ (by decide), part_of_part _ _ _ _ _ (by decide)] at h1 h2
  have h3 := halves_join (n := 32) c
  rw [← h1, ← h2] at h3
  exact h3

/-- An account reference in its eight words. -/
theorem account_join (c : BitVec 128) (bay : Word) (tail : List Word) :
    bodyAccount (bay :: (fieldWords 8 c ++ tail)) 1 = c := by
  have h1 := code_join (c.extractLsb' 64 64)
  have h2 := code_join (c.extractLsb' 0 64)
  rw [part_of_part _ _ _ _ _ (by decide), part_of_part _ _ _ _ _ (by decide), part_of_part _ _ _ _ _ (by decide),
    part_of_part _ _ _ _ _ (by decide)] at h1 h2
  have h3 := halves_join (n := 64) c
  rw [← h1, ← h2] at h3
  exact h3

end Sys2Proof.Machine
end

