-- ==== Sys2Proof/Tests/Slice0.lean ====
section
/-!
SUPPORT. Tests: an ill-formed command for each check of WellFormed, the numbers of the manual's worked examples, single
steps on small states, and for each statement of Obligations.lean a state and operands that meet its hypotheses.
-/
namespace Sys2Proof.Tests
open Sys2Proof Sys2Proof.Machine

set_option Elab.async false

/-! ## WellFormed refuses -/

theorem test_wake_visit_outside : (Instr.wake 0 [] [⟨48, .ask⟩]).wellFormed = false := by decide
theorem test_sweepTimer_visit_outside : (Instr.sweepTimer [] [⟨48, .run⟩]).wellFormed = false := by decide

def settings (f : SiteSettings → SiteSettings) : Instr := .setSite 0 0 0x1200 (f SiteSettings.reset)

theorem test_setSite_importCap : (settings ({ · with importCap := 2 ^ 32 })).wellFormed = false := by decide
theorem test_setSite_feederLimit : (settings ({ · with feederLimit := 2 ^ 32 })).wellFormed = false := by decide
theorem test_setSite_exportLimit : (settings ({ · with exportLimit := 2 ^ 32 })).wellFormed = false := by decide
theorem test_setSite_margin : (settings ({ · with margin := 2 ^ 32 })).wellFormed = false := by decide
theorem test_setSite_intervalTarget : (settings ({ · with intervalTarget := 2 ^ 32 })).wellFormed = false := by decide
theorem test_setSite_holdLineLimit : (settings ({ · with holdLineLimit := 2 ^ 32 })).wellFormed = false := by decide
theorem test_setSite_reserveFloor : (settings ({ · with reserveFloor := 65536 })).wellFormed = false := by decide
theorem test_setSite_topUpTarget : (settings ({ · with topUpTarget := 65536 })).wellFormed = false := by decide
theorem test_setSite_dischargeLimit : (settings ({ · with dischargeLimit := 2 ^ 32 })).wellFormed = false := by decide
theorem test_setSite_chargeLimit : (settings ({ · with chargeLimit := 2 ^ 32 })).wellFormed = false := by decide
theorem test_setSite_freeAuthority : (settings ({ · with freeAuthority := 65536 })).wellFormed = false := by decide
theorem test_setSite_noticeThreshold : (settings ({ · with noticeThreshold := 65536 })).wellFormed = false := by decide
theorem test_setSite_noticeLinger : (settings ({ · with noticeLinger := 65536 })).wellFormed = false := by decide
theorem test_setSite_idleGrace : (settings ({ · with idleGrace := 65536 })).wellFormed = false := by decide
theorem test_setSite_fittedOverride : (settings ({ · with fittedOverride := 65536 })).wellFormed = false := by decide
theorem test_setSite_speedOverride : (settings ({ · with speedOverride := 65536 })).wellFormed = false := by decide

theorem test_setTariff_count :
    (Instr.setTariff 0 0 0x1200 (List.replicate 256 ⟨0, 0, 0, 0, 0, false⟩)).wellFormed = false := by
  decide +kernel
theorem test_setTariff_start : (Instr.setTariff 0 0 0x1200 [⟨65536, 0, 0, 0, 0, false⟩]).wellFormed = false := by decide
theorem test_setTariff_grid : (Instr.setTariff 0 0 0x1200 [⟨0, 65536, 0, 0, 0, false⟩]).wellFormed = false := by decide
theorem test_setTariff_sun : (Instr.setTariff 0 0 0x1200 [⟨0, 0, 65536, 0, 0, false⟩]).wellFormed = false := by decide
theorem test_setTariff_battery : (Instr.setTariff 0 0 0x1200 [⟨0, 0, 0, 65536, 0, false⟩]).wellFormed = false := by decide
theorem test_setTariff_idle : (Instr.setTariff 0 0 0x1200 [⟨0, 0, 0, 0, 65536, false⟩]).wellFormed = false := by decide
theorem test_answer_length : (Instr.answerReceived ⟨1, 1, 3, 0xFC, 2, [0], 0⟩).wellFormed = false := by decide

/-! ## Numbers of the worked examples -/

/-- Section 3.5. -/
theorem test_shares : sharesOf 22000 9500 6000 = ⟨431, 272, 297⟩ ∧ sharesOf 22000 30000 6000 = ⟨1000, 0, 0⟩
    ∧ sharesOf 22000 9500 (-4000) = ⟨431, 0, 569⟩ ∧ sharesOf 0 9500 6000 = ⟨0, 0, 1000⟩ := by decide

/-- Section 3.8. -/
theorem test_allowance : demandAllowance 25000 24970 900 1740 = some 1800 ∧ demandAllowance 25000 24985 900 1741 = some 915
    ∧ demandAllowance 25000 25000 900 1742 = some 0 ∧ demandAllowance 25000 0 900 900 = some 100000
    ∧ demandAllowance 0 24970 900 1740 = none := by decide

/-- Section 4.4: 136 quanta over the rooms 96, 60, 206, 96, 96 and a SATED bay. -/
theorem test_waterFill : waterFill 136 [96, 60, 206, 96, 96, 0] = [28, 27, 27, 27, 27, 0] := by decide

/-- Section 11.7: 8 quanta over three bays. -/
theorem test_waterFill_small : waterFill 8 [96, 96, 96] = [3, 3, 2] := by decide

/-- Section 4.5: the ramp step. -/
theorem test_ramp : ramp 0 4100 = 3600 ∧ ramp 3000 4200 = 4200 ∧ ramp 7400 4100 = 4100 := by decide

/-- Sections 4.4, 4.6 and 11.7. -/
theorem test_setpoint : chooseSetpoint 33000 30000 5000 10000 false = (3000, .supporting)
    ∧ chooseSetpoint (-16000) 30000 0 10000 false = (-10000, .soaking)
    ∧ chooseSetpoint 11000 12000 0 0 false = (0, .idle) ∧ chooseSetpoint 11000 12000 0 700 true = (-700, .topping)
    ∧ chooseSetpoint 11000 10000 0 0 true = (0, .idle) := by decide

/-- Section 4.6: a cut of 800 W to each of five strings, and room of 100 W over five strings. -/
theorem test_ceilings : cutCeiling none 80 6200 800 = 54 ∧ cutCeiling none 80 5950 800 = 51
    ∧ cutCeiling none 80 5750 800 = 49 ∧ raiseCeiling (some 54) 80 (100 / 500) = some 54
    ∧ raiseCeiling (some 54) 80 26 = none := by decide

/-- Section 7.1. -/
theorem test_split : splitEnergy 7 ⟨431, 272, 297⟩ 0 0 = ⟨3, 1, 3, 17, 904⟩
    ∧ splitEnergy 5 ⟨431, 272, 297⟩ 17 904 = ⟨2, 2, 1, 172, 264⟩ := by decide

def pricedSession : Session :=
  ⟨7, 2, 0, some 0, .voucher, none, some 5, none, none, 12036, 4650, 1210, 6176, 0, 0,
    [⟨2, 7, 32, 18, 25, 4130, 1210, 3305⟩, ⟨3, 7, 45, 18, 30, 520, 0, 2871⟩],
    ⟨1860, none, some ⟨3, 7, 10, 15⟩⟩, none, false, none⟩

/-- Section 7.5. -/
theorem test_pricing : (billOf [⟨5, .percent, 20, 0, true⟩] pricedSession).total = 440
    ∧ (billOf [⟨5, .percent, 20, 0, true⟩] pricedSession).lines.map (·.amount) = [210, 139, 160, 69] := by decide

/-- Section 7.2: before the first start of the day the last band is in force. -/
theorem test_band : (bandInForce [⟨360, 1, 0, 0, 0, false⟩, ⟨1200, 2, 0, 0, 0, false⟩] 359).map (·.1) = some 2
    ∧ (bandInForce [⟨360, 1, 0, 0, 0, false⟩, ⟨1200, 2, 0, 0, 0, false⟩] 360).map (·.1) = some 1
    ∧ bandInForce [] 360 = none := by decide

/-- Section 4.3: grant order with a priority flag for bay 1 and the mark at bay 4. -/
theorem test_grantOrder : ((grantOrder (fun b => decide (b = 0)) 3).take 5) = [0, 4, 5, 6, 7] := by decide

/-- R105, R106. -/
theorem test_allowances : dischargeAllowance .ready true false 6000 10000 = 10000
    ∧ dischargeAllowance .ready false false 6000 10000 = 6000 ∧ dischargeAllowance .reserve true true 6000 10000 = 0
    ∧ dischargeAllowance .backup true false 6000 10000 = 10000 ∧ chargeAllowance .reserve 6000 10000 = 6000
    ∧ chargeAllowance .backup 6000 10000 = 0 := by decide

/-- R173: a POLL of bay 5 with link tag 9, and a discharge order of 3000 W. -/
theorem test_lineBytes :
    (Exchange.mk ⟨some (.bay 4), .poll⟩ .ordinary 9 false false false).lineBytes = [0xC3, 5, 9, 3, 0xFC, 0, 0xF3]
    ∧ (FrameBody.setpoint (.watts 3000)).payload = [0, 0, 0, 0x0B, 0xB8] := by decide

/-- R170: the words of a STOP_SESSION for bay 3 with ticket 41. -/
theorem test_requestWords : (requestWords .stopSession 41 [3]).take 6 = [1, 4, 0xFFFB, 41, 3, 3] := by decide

/-- R172: the places of list entries and slips. -/
theorem test_places : offerEntry false 70 = 0x0E08 ∧ offerEntry true 33 = 0x0E83 ∧ receiptEntry 311 = 0x0F02 + 275
    ∧ slipBase 17 = 0x2440 ∧ slipBase 128 = 0x4000 ∧ slipBase 159 = 0x5F00 := by decide

/-! ## States -/

/-- HALTED, with nothing asked. -/
def halted : State := { State.reset with price.queue := [], pageAsks := 0 }

/-- RUN, with a page rewrite in progress. -/
def running : State := { halted with
  site.run := .run, site.siteSet := true, xchg.rewriting := true, xchg.generation := 1, xchg.clock := 1000, elapsed := 100 }

def namedRec (t : Target) : ModuleRec :=
  { ModuleRec.reset .isIn with link := .named, serial := some 1, cls := some t.cls, rating := 110, tag := 7 }

/-- The record of a target NAMED. -/
def nameTarget (s : State) (t : Target) : State := s.setRec t (namedRec t)

/-- A bay in a state, with a grant. -/
def put (s : State) (b : BayIx) (st : BayState) (grant : Nat) : State :=
  (s.setBay b { s.bayOf b with state := st }).setGrant b grant

/-- An OPEN session of a bay. -/
def seat (s : State) (b : BayIx) (n : Nat) : State :=
  { s.setBay b { s.bayOf b with session := some n, latch := .lock } with
    sess.table := s.sess.table ++ [⟨n, b, 0, none, .free, none, none, none, none, 0, 0, 0, 0, 0, 0, [], ⟨0, none, none⟩,
      none, true, none⟩] }

/-- An answer of a target that holds tag 7, as an exchange of a kind expects it. -/
def answerTo (f : Frame) (tag : Byte) (payload : List Byte) : AnswerFrame :=
  let a : AnswerFrame := ⟨f.addressByte, tag, f.body.kindByte, ~~~f.body.kindByte, BitVec.ofNat 8 payload.length, payload, 0⟩
  { a with check := xorBytes (checkedBytes a) }

def attemptOf (f : Frame) (retry : Bool) : Exchange := ⟨f, .ordinary, 7, retry, false, false⟩

def waiting (s : State) (f : Frame) (retry : Bool) : State := { s with link.bus := .awaiting (attemptOf f retry) }

def sampleOf (power feeder : DWord) (present : Byte) : SampleFrame :=
  let m : SampleFrame := ⟨5, power, present, 1000, feeder, 0, 0, 0⟩
  { m with check := xorBytes (sampleData m) }

/-- The state a command answers. -/
def after (c : Instr) (s : State) : State :=
  match exec c s with
  | .next t => t
  | .fault _ => s
  | .refused _ => s

theorem halted_quiet : halted.Quiet := ⟨rfl, rfl, rfl, Or.inr rfl⟩
theorem running_quiet : running.Quiet := ⟨rfl, rfl, rfl, Or.inr rfl⟩

/-- 8 places in use, with requests of slots 0 to 7 under ticket 9. -/
def fullHolder : Vector (Option Held) 8 :=
  Vector.ofFn (fun p : Fin 8 => some ⟨⟨p.val, by omega⟩, 9, Kind.stopSession.code, padBody [3]⟩)

/-! ## Steps -/

theorem test_power_on_strap_error : (after (.powerOnReset ⟨false, false, true, false⟩ false) State.reset).strapError = true := by
  decide +kernel

theorem test_run_without_site : (after .run halted).site.lastRefusal = .noSite := by decide +kernel

theorem test_run_enters : (after .run { running with site.run := .halted, xchg.rewritePending := true }).site.run = .run
    ∧ (after .run { running with site.run := .halted, xchg.rewritePending := true }).link.ordinary
      = [⟨⟨none, .name 0⟩, false, true⟩] := by decide +kernel

theorem test_mask : (after (.attnMaskWrite 0xFFFF) running).xchg.mask = 0x00FF := by decide +kernel

theorem test_attn_read : (after .attnRead { running with xchg.attn := 5 }).spiData = 5
    ∧ (after .attnRead { running with xchg.attn := 5 }).xchg.attn = 0 := by decide +kernel

theorem test_inert_write : (after (.registerWriteNoEffect (.ident 7)) running).xchg.attn = running.xchg.attn := by decide +kernel

theorem test_reset_low : (after .resetDrivenLow running).inReset = true := by decide +kernel

theorem test_clock_tick : (after .siteClockAdvance running).xchg.clock = 1001 := by decide +kernel

theorem test_clock_stops : (after .siteClockAdvance { running with xchg.clock := 4294967295 }).xchg.clock = 4294967295 := by
  decide +kernel

theorem test_take_frame :
    (after .busFreeTakeFrame { running with link.ordinary := [⟨⟨some .store, .who⟩, false, false⟩] }).link.bus
      = .sending ⟨⟨some .store, .who⟩, .ordinary, 0, false, false, false⟩ := by decide +kernel

theorem test_frame_sent :
    (after .frameSent { running with link.bus := .sending (attemptOf ⟨some .store, .poll⟩ false) }).link.bus
      = .awaiting (attemptOf ⟨some .store, .poll⟩ false) := by decide +kernel

theorem test_window_end : (after .broadcastWindowEnd { running with link.bus := .window }).link.bus = .idle := by decide +kernel

theorem test_stray : (after .strayBytes running).link.frameErrors = 1 := by decide +kernel

theorem test_timeout_retries : (after .answerTimeout (waiting running ⟨some .store, .poll⟩ false)).link.bus
    = .sending (attemptOf ⟨some .store, .poll⟩ true) := by decide +kernel

theorem test_aborted_answer_counts : (after .answerAborted (waiting running ⟨some .store, .poll⟩ false)).link.frameErrors = 1 := by
  decide +kernel

theorem test_who_is_named :
    (after (.answerReceived (answerTo ⟨some .store, .who⟩ 0 [0, 0, 0, 0, 0, 0, 0, 9, 3, 100, 0]))
      (waiting running ⟨some .store, .who⟩ false)).link.ordinary = [⟨⟨some .store, .name 1⟩, false, false⟩] := by decide +kernel

/-- R6, R7: a record in MISMATCH is left alone. -/
theorem test_mismatch_is_left_alone :
    let s := (running.setRec .store (ModuleRec.reset .isIn)).queueWho .store true
    (after (.answerReceived (answerTo ⟨some .store, .who⟩ 0 [0, 0, 0, 0, 0, 0, 0, 9, 1, 100, 0]))
        (waiting s ⟨some .store, .who⟩ false)).link.ordinary = []
      ∧ ((after (.answerReceived (answerTo ⟨some .store, .name 3⟩ 3 []))
        (waiting (running.setRec .store (ModuleRec.reset .mismatch)) ⟨some .store, .name 3⟩ false)).recOf .store).link
          = .unnamed := by decide +kernel

theorem test_plug_in :
    ((after (.answerReceived (answerTo ⟨some (.bay 4), .poll⟩ 7 ([1, 1, 0] ++ List.replicate 17 0)))
      (waiting (put (nameTarget running (.bay 4)) 4 .vacant 0) ⟨some (.bay 4), .poll⟩ false)).bayOf 4).state = .plugged := by
  decide +kernel

theorem test_cycle_polls :
    ((after .schedulerCycle (nameTarget running .store)).link.ordinary.map (·.frame)).getLast? = some ⟨some .store, .poll⟩ := by
  decide +kernel

theorem test_sample_accepted : (after (.sampleReceived (sampleLine (sampleOf 3600 0 1))) halted).meter.used = 1 := by decide +kernel

theorem test_sample_bad_flag : (after (.sampleReceived (sampleLine (sampleOf 3600 0 2))) halted).meter = halted.meter := by decide +kernel

theorem test_sample_aborted : (after .sampleAbort { running with meter.receiver := .inside [1, 2] }).meter.receiver = .waiting := by
  decide +kernel

theorem test_meter_lost : (after .meterLost { running with meter.state := .live, meter.watch := some 97 }).meter.state = .blind
    ∧ (after .meterLost { running with meter.state := .live, meter.watch := some 98 }).meter.state = .live := by decide +kernel

theorem test_sample_by_bytes :
    (after (.sampleReceived ((sampleLine (sampleOf 3600 0 1)).drop 1))
      (after (.sampleReceived [⟨0x5A, false⟩, ⟨9, true⟩, ⟨0x5A, true⟩]) halted)).meter.used = 1 := by decide +kernel

theorem test_cycle_waits_a_second :
    (after .schedulerCycle { nameTarget running .store with link.cycleStart := some 100 }).link.ordinary = []
    ∧ (after .schedulerCycle { nameTarget running .store with link.cycleStart := some 99 }).link.ordinary ≠ [] := by
  decide +kernel

theorem test_restart_clears_the_power :
    ((after .restart (running.setBay 3 { running.bayOf 3 with power := 700 })).bayOf 3).power = 0 := by decide +kernel

theorem test_registers_read_zero_in_reset :
    let s := { running with site.straps := ⟨false, false, true, true⟩ }
    s.identView.strapError = true ∧ ({ s with inReset := true } : State).identView.strapError = false
      ∧ s.siteCtlView.run = .run ∧ ({ s with inReset := true } : State).siteCtlView.run = .halted := by decide +kernel

theorem test_blind_round :
    (after .blindTimer ({ put (seat running 0 1) 0 .charging 5000 with allot.blindTimer := true })).grantOf 0 = 1400 := by
  decide +kernel

theorem test_hold_line : (after (.holdLineChange true) running).hold.state = .requested := by decide +kernel

theorem test_hold_deadline : (after .holdDeadline { running with
    hold.state := .requested, hold.deadline := some 100, hold.lineActive := true }).hold.state = .missed := by decide +kernel

theorem test_hold_request_end :
    (after .holdRequestEnd { running with hold := ⟨false, some ⟨9, 100, none⟩, .met, none, 3, true⟩ }).hold.state = .clear := by
  decide +kernel

theorem test_return_timer :
    (after .returnTimer { running with meter.state := .live, grid := ⟨.returning, .running 100⟩ }).grid.state = .present := by
  decide +kernel

theorem test_cooldown :
    ((after (.cooldownEnd 3) (running.setBay 3 { running.bayOf 3 with cooldown := some 1000 })).bayOf 3).cooldown = none := by
  decide +kernel

theorem test_vouchers_expire : (after .voucherExpiryCheck { running with
    sess.vouchers := [⟨1, .amount, 1, 1000, false⟩, ⟨2, .amount, 1, 1001, false⟩, ⟨3, .amount, 1, 1, true⟩] }).sess.vouchers.map
      (·.code) = [2, 3] := by decide +kernel

theorem test_interval_end : (after .intervalEnd { running with meter.used := 7 }).meter.intervalStart = 900 := by decide +kernel

theorem test_write_passes : (after (.storeWriteComplete .passed) { running with
    price.active := some ⟨.block .session 64, ⟨[], 0, false, 0⟩⟩ }).nv.session = 64 := by decide +kernel

theorem test_write_fails : (after (.storeWriteComplete (.failed true)) { running with
    price.active := some ⟨.block .session 64, ⟨[], 0, false, 0⟩⟩ }).nv.sessionDamaged = true := by decide +kernel

theorem test_linger : (after .lingerTimer { running with rcpt.linger := some 100, rcpt.write := 1 }).xchg.attn = 2 := by decide +kernel

theorem test_page_timer_waits : (after .pageTimer running).xchg.rewritePending = true := by decide +kernel

theorem test_page_end : (after .pageRewriteEnd running).xchg.generation = 2 := by decide +kernel

theorem test_restart_halts : (after .restart { running with site.run := .run }).site.run = .halted := by decide +kernel

theorem test_due_restart : (after .setSiteRestart { running with restartDue := some .run }).restartDue = none := by decide +kernel

theorem test_sweep_takes_a_request :
    (after (.wake 1 (((requestWords .setClock 5 (bodySetClock 77 0)).zip (List.range 29)).map (fun p => ⟨BitVec.ofNat 15 p.2, p.1⟩)) [])
      running).xchg.clock = 77 := by decide +kernel

/-- R167: a sweep asked for while a site restart is due waits for it. -/
theorem test_sweep_waits_for_a_restart :
    (after (.wake 0 [] []) { running with restartDue := some .run }).xchg.wakePending = true := by decide +kernel

theorem test_sweep_timer_defers :
    (after (.sweepTimer (((requestWords .lockTariff 5 []).zip (List.range 29)).map (fun p => ⟨BitVec.ofNat 15 p.2, p.1⟩)) [])
      { running with xchg.holder := fullHolder }).xchg.mem.word 0 = slotFilled := by decide +kernel

theorem test_set_clock : (after (.setClock 0 5 77 0) running).xchg.clock = 77 := by decide +kernel

theorem test_set_clock_offset : (after (.setClock 0 5 77 50401) running).xchg.clock = 1000 := by decide +kernel

theorem test_set_site : (after (.setSite 0 5 0x1200 { SiteSettings.reset with importCap := 40000 }) running).site.settings.importCap
    = 40000 := by decide +kernel

theorem test_set_site_table_outside : (after (.setSite 0 5 0x7FE6 SiteSettings.reset) running).xchg.mem.word 0 = slotRefused
    ∧ (after (.setTariff 0 5 0x7FFF []) running).xchg.mem.word 5 = Reason.malformed.code := by decide +kernel

theorem test_authorise_needs_plugged : (after (.authorise 0 5 3 0 0) running).xchg.mem.word 5 = 8 := by decide +kernel

theorem test_stop_without_session : (after (.stopSession 0 5 3) running).xchg.mem.word 5 = 12 := by decide +kernel

theorem test_park : ((after (.parkBay 0 5 3) (put (nameTarget running (.bay 2)) 2 .vacant 0)).bayOf 2).parkPending = true := by
  decide +kernel

theorem test_return : ((after (.returnBay 0 5 3) (put running 2 .parked 0)).bayOf 2).state = .seeking := by decide +kernel

theorem test_enrol : (after (.enrolBay 0 5 50) running).link.ordinary = [⟨⟨some .store, .who⟩, false, false⟩] := by decide +kernel

theorem test_post : (after (.postVoucher 0 5 0x3430373138383233 1 150 2000) running).sess.vouchers.map (·.value) = [150] := by decide +kernel

theorem test_withdraw_nothing : (after (.withdrawVoucher 0 5 0x3430373138383233) running).xchg.mem.word 5 = 15 := by decide +kernel

theorem test_set_tariff : (after (.setTariff 0 5 0x1200 [⟨0, 40, 20, 30, 5, true⟩]) running).price.active.map (·.item.generation)
    = some 1 := by decide +kernel

theorem test_lock_without_tariff : (after (.lockTariff 0 5) running).price.active = none := by decide +kernel

theorem test_unlock : (after (.unlockTariff 0 5) { running with price.locked := true }).price.unlockPending = true := by decide +kernel

theorem test_counters : (after (.setCounters 0 5 128 192) { running with site.run := .halted }).price.sessions.next = some 128 := by
  decide +kernel

theorem test_grid_hold : (after (.gridHold 0 5 20000 30) running).hold.request = some ⟨20000, 1900, some 0⟩ := by decide +kernel

theorem test_cancel : (after (.cancel 9 5 3 9) { running with xchg.holder := fullHolder }).xchg.holder[3] = none := by decide +kernel

/-! ## Witnesses: a state and operands that meet the hypotheses of each statement -/

/-- A quiet state: in use, no round, no page request and no store write that may begin. -/
theorem quiet_of (s : State) (h : (!s.inReset && decide (s.roundsAsked = 0) && decide (s.pageAsks = 0)
    && (s.price.active.isSome || s.price.queue.isEmpty)) = true) : s.Quiet := by
  simp only [Bool.and_eq_true, Bool.not_eq_true', decide_eq_true_eq, Bool.or_eq_true, Option.isSome_iff_ne_none,
    List.isEmpty_iff] at h
  exact ⟨h.1.1.1, h.1.1.2, h.1.2, h.2⟩

theorem witness_StepTakesTheFrontCommand : running.pending = [] := rfl

theorem running_sound : running.Sound where
  memory := by decide +kernel
  lanes := by unfold State.lanesUnique; decide +kernel
  ack := by unfold State.ackInMet; decide +kernel
  registers := by unfold State.registersSpare spareClear; decide +kernel
  count := by unfold State.countOdd; decide +kernel
  tag := by unfold State.tagNonzero; decide +kernel
  table := by unfold State.tableFits; decide +kernel
  vouchers := by unfold State.vouchersFit; decide +kernel
  shares := by unfold State.sharesWhole; decide +kernel
  residue := by unfold State.residueSmall; decide +kernel
  clock := by unfold State.clockFits; decide +kernel
  good := by unfold State.goodFits; decide +kernel

def oneWaiting : State := { running with pending := [.siteClockAdvance] }

theorem witness_EveryStepKeepsTheLaws : oneWaiting.Sound ∧ ∃ t, step oneWaiting = .next t :=
  ⟨⟨running_sound.memory, running_sound.lanes, running_sound.ack, running_sound.registers, running_sound.count,
    running_sound.tag, running_sound.table, running_sound.vouchers, running_sound.shares, running_sound.residue,
    running_sound.clock, running_sound.good⟩, ⟨_, rfl⟩⟩

theorem witness_EveryCommandEndsServed : ∃ t, exec .siteClockAdvance running = .next t ∧ t.inReset = false := ⟨_, rfl, rfl⟩

/-- Bay 1 waits and bay 2 charges at the least grant. -/
def twoBays : State :=
  { seat (put (seat (put running 0 .awaitPower 0) 0 1) 1 .charging 1400) 1 2 with allot.waitList := [0] }

theorem witness_EveryStepKeepsWaitListAndGrants :
    twoBays.waitListExact ∧ twoBays.grantsMatch ∧ ({ twoBays with allot.blindBudget := 1400 } : State).grantsBounded
      ∧ ∃ t, step { twoBays with pending := [.sampleReceived (sampleLine (sampleOf 0 0 1))] } = .next t := by
  refine ⟨?_, ?_, ?_, ⟨_, rfl⟩⟩
  · unfold State.waitListExact; decide +kernel
  · unfold State.grantsMatch; decide +kernel
  · unfold State.grantsBounded; decide +kernel

theorem witness_ResetHoldsThePart : ({ running with inReset := true } : State).inReset = true
    ∧ Instr.run ≠ .attnRead ∧ Instr.run ≠ .resetDrivenLow ∧ ∀ straps level, Instr.run ≠ .powerOnReset straps level :=
  ⟨rfl, by decide, by decide, (fun _ _ h => by cases h)⟩

def writingTariff : State := { running with price.active := some ⟨.tariff (some 0) [], ⟨[], 1, false, 0⟩⟩ }
def writingBlock (k : NumberKind) : State := { running with price.active := some ⟨.block k 64, ⟨[], 0, false, 0⟩⟩ }

theorem witness_ResetHoldsThePart_low :
    running.price.active = none ∧ writingTariff.price.active = some ⟨.tariff (some 0) [], ⟨[], 1, false, 0⟩⟩
      ∧ (writingBlock .session).price.active = some ⟨.block .session 64, ⟨[], 0, false, 0⟩⟩
      ∧ (writingBlock .receipt).price.active = some ⟨.block .receipt 64, ⟨[], 0, false, 0⟩⟩ := ⟨rfl, rfl, rfl, rfl⟩

def badStraps : Straps := ⟨false, false, true, true⟩
def strapped : State := { halted with site.straps := badStraps }

theorem witness_StrapsAreLatchedAtPowerOnReset :
    (∃ t, exec (.powerOnReset badStraps true) running = .next t)
      ∧ (∃ t, exec .run running = .next t) ∧ (∀ straps level, Instr.run ≠ .powerOnReset straps level)
      ∧ ({ halted with site.inForce := ⟨8, 0, 0⟩ } : State).site.inForce.fittedOverride ≠ 0
      ∧ halted.site.inForce.fittedOverride = 0 ∧ halted.site.inForce.speedOverride = 0
      ∧ strapped.Quiet ∧ strapped.site.run = .halted ∧ strapped.strapError = true
      ∧ badStraps.fit1 = false ∧ badStraps.fit0 = false :=
  ⟨⟨_, rfl⟩, ⟨_, rfl⟩, (fun _ _ h => by cases h), by decide, rfl, rfl, quiet_of _ rfl, rfl, rfl, rfl, rfl⟩

theorem witness_RunIsTestedInOrder :
    (running.Quiet ∧ running.site.run = .run)
      ∧ (strapped.Quiet ∧ strapped.site.run = .halted ∧ strapped.strapError = true)
      ∧ (let s := { halted with site.countersMissing := true }
         s.Quiet ∧ s.site.run = .halted ∧ s.strapError = false ∧ s.site.countersMissing = true)
      ∧ (halted.site.run = .halted ∧ halted.strapError = false ∧ halted.site.countersMissing = false
         ∧ halted.site.siteSet = false)
      ∧ (let s := { halted with site.siteSet := true }
         s.Quiet ∧ s.site.run = .halted ∧ s.strapError = false ∧ s.site.countersMissing = false ∧ s.site.siteSet = true) :=
  ⟨⟨running_quiet, rfl⟩, ⟨quiet_of _ rfl, rfl, rfl⟩, ⟨quiet_of _ rfl, rfl, rfl, rfl⟩, ⟨rfl, rfl, rfl, rfl⟩,
    ⟨quiet_of _ rfl, rfl, rfl, rfl, rfl⟩⟩

def dueState (r : RunState) : State := { running with restartDue := some r }

theorem witness_SiteRestartRenewsTheUnits :
    (running.Quiet ∧ running.restartDue = none ∧ running.xchg.wakePending = false ∧ running.ackInMet
        ∧ (∀ x ∈ running.sess.table, x.isOpen = false))
      ∧ (∀ r, (dueState r).Quiet ∧ (dueState r).ackInMet ∧ (dueState r).restartDue = some r
          ∧ (dueState r).xchg.wakePending = false)
      ∧ (let s := { running with sess.vouchers := [⟨1, .amount, 1, 2000, false⟩] }
         s.Quiet ∧ s.ackInMet ∧ ∀ v ∈ s.sess.vouchers, ∀ x ∈ s.sess.table, x.voucher ≠ some v.code) :=
  ⟨⟨running_quiet, rfl, rfl, running_sound.ack, (fun _ h => by cases h)⟩,
    fun _ => ⟨quiet_of _ rfl, running_sound.ack, rfl, rfl⟩, quiet_of _ rfl, running_sound.ack, (fun _ _ _ h => by cases h)⟩

/-- Bay 23 CHARGING and bay 24 ENDING, each with an OPEN session of 7 Wh; requests held for slot 0, still TAKEN under ticket 9,
or no longer TAKEN. -/
def restarting (mem : Memory) : State :=
  let s := seat (seat (put (put running 22 .charging 1400) 23 .ending 0) 22 8) 23 9
  { s with
    sess.table := s.sess.table.map (fun z => { z with total := 7 }), xchg.mem := mem,
    xchg.holder := s.xchg.holder.set 7 (some ⟨0, 9, Kind.parkBay.code, padBody [24]⟩) }

theorem witness_SiteRestartRenewsTheUnits_closes : ∀ mem ∈ [([(1, 2), (7, 9)] : Memory), []],
    let s := restarting mem
    s.Quiet ∧ s.ackInMet ∧ s.xchg.holder[7] = some ⟨0, 9, Kind.parkBay.code, padBody [24]⟩
      ∧ (∀ q : Fin 8, q ≠ 7 → s.xchg.holder[q] = none)
      ∧ decide (s.xchg.mem.word (slotBase 0) = slotTaken ∧ s.xchg.mem.word (slotBase 0 + 3) = 9) = decide (mem ≠ [])
      ∧ s.price.receipts.valid = false ∧ (s.sess.table.map (·.number)).Nodup
      ∧ s.sess.table.map (fun z => ((s.bayOf z.bay).state, z.isOpen, z.bay, z.total))
          = [(.charging, true, 22, 7), (.ending, true, 23, 7)] := by
  intro mem h
  refine ⟨quiet_of _ rfl, rfl, ?_⟩
  revert mem
  decide +kernel

theorem test_restart_closes :
    ((after .restart (restarting [(1, 2), (7, 9)])).sess.table.map (fun z => (z.number, z.isOpen, z.cause)),
      (after .restart (restarting [])).xchg.lost) = ([(8, false, some .siteRestart), (9, false, none)], 1) := by
  decide +kernel

theorem witness_RegistersAreReadAndWritten : running.Quiet ∧ running.inReset = false := ⟨running_quiet, rfl⟩

/-! The bay module of bay 24, NAMED with tag 7, has been polled. -/

/-- The bay in a state, with its last good energy reading, its POLL answered in an attempt. -/
def polledBay (st : BayState) (grant : Nat) (energy : Option Nat) (f : BayRec → BayRec) : State :=
  let s := (put running 23 st grant).setRec (.bay 23) { namedRec (.bay 23) with energy := energy }
  waiting (s.setBay 23 (f (s.bayOf 23))) ⟨some (.bay 23), .poll⟩ false

/-- The same with an OPEN session of number 9. -/
def polledSession (st : BayState) (grant : Nat) (energy : Option Nat) (f : Session → Session) : State :=
  let s := seat (polledBay st grant energy id) 23 9
  { s with sess.table := s.sess.table.map f }

/-- A POLL answer: presence, power, energy reading, fault, keypad flag (of a code of eight zeros) and stop button. -/
def bayAnswer (present : Byte) (power : Nat) (energy fault key stop : Byte) : AnswerFrame :=
  answerTo ⟨some (.bay 23), .poll⟩ 7 ([1, present, 0, BitVec.ofNat 8 (power / 256), BitVec.ofNat 8 power, 0, 0, 0, energy,
    fault, key] ++ List.replicate 8 0x30 ++ [stop])

/-- What GoodPoll asks, for an attempt of a POLL. -/
def pollReady (s : State) (t : Target) (a : AnswerFrame) : Bool :=
  !s.inReset && decide (s.roundsAsked = 0) && decide (s.pageAsks = 0) && (s.price.active.isSome || s.price.queue.isEmpty)
    && decide (s.site.run = .run ∧ s.link.bus = .awaiting (attemptOf ⟨some t, .poll⟩ false)
      ∧ answerOk (attemptOf ⟨some t, .poll⟩ false) (s.recOf t) a = true ∧ payloadByte a.payload 0 = 1
      ∧ (s.recOf t).link = .named ∧ (s.recOf t).missed < 3 ∧ (s.recOf t).resend = ResendSet.empty)

theorem goodPoll_of {s : State} {t : Target} {a : AnswerFrame} (h : pollReady s t a = true) :
    GoodPoll s (attemptOf ⟨some t, .poll⟩ false) t a := by
  unfold pollReady at h
  rw [Bool.and_eq_true, decide_eq_true_eq] at h
  exact ⟨quiet_of s h.1, h.2.1, h.2.2.1, rfl, h.2.2.2.1, h.2.2.2.2.1, h.2.2.2.2.2.1, h.2.2.2.2.2.2.1, h.2.2.2.2.2.2.2⟩

theorem goodPolls {α : Type} {t : Target} (l : List α) (s : α → State) (a : α → AnswerFrame) (P : α → Prop)
    (h : ∀ c ∈ l, pollReady (s c) t (a c) = true ∧ P c) :
    ∀ c ∈ l, GoodPoll (s c) (attemptOf ⟨some t, .poll⟩ false) t (a c) ∧ P c :=
  fun c hc => ⟨goodPoll_of (h c hc).1, (h c hc).2⟩

/-- A bay without a session that stays, a vehicle that comes, one that goes, and a fault. -/
def plainPolls : List (State × AnswerFrame × BayState) :=
  [(BayState.vacant, bayAnswer 0 0 4 0 0 0), (.plugged, bayAnswer 1 0 4 0 0 0), (.faulted, bayAnswer 1 0 4 1 0 0),
    (.vacant, bayAnswer 1 0 4 0 0 0), (.faulted, bayAnswer 1 0 4 0 0 0), (.plugged, bayAnswer 0 0 4 0 0 0),
    (.faulted, bayAnswer 0 0 4 0 0 0), (.vacant, bayAnswer 0 0 4 255 0 0), (.plugged, bayAnswer 1 0 4 1 0 0)].map
      (fun c => (polledBay c.1 0 (some 4) id, c.2, c.1))

theorem witness_BayPollsMoveTheBay_plain : ∀ c ∈ plainPolls,
    GoodPoll c.1 (attemptOf ⟨some (.bay 23), .poll⟩ false) (.bay 23) c.2.1 ∧ (c.1.bayOf 23).state = c.2.2
      ∧ c.1.openSession 23 = none ∧ (c.1.recOf (.bay 23)).energy = some 4 ∧ (bayReport c.2.1.payload).energy = 4
      ∧ c.1.freeOn = false ∧ (bayReport c.2.1.payload).keypad = none ∧ (c.1.bayOf 23).freePending = false :=
  goodPolls plainPolls (·.1) (·.2.1) _ (by decide +kernel)

/-- A session in each eligible state, and the answers that end it: an unplugged vehicle, the stop button, a fault. -/
def endingPolls : List (State × AnswerFrame) :=
  [BayState.awaitPower, .charging, .sated].flatMap (fun st =>
    [bayAnswer 0 0 4 0 0 0, bayAnswer 1 0 4 0 0 1, bayAnswer 1 0 4 1 0 0].map (fun a => (polledSession st 1400 (some 4) id, a)))

/-- A final answer in ENDING: vehicle gone, vehicle present, fault. -/
def finalPolls : List (State × AnswerFrame) :=
  [bayAnswer 0 0 4 0 0 0, bayAnswer 1 0 4 0 0 0, bayAnswer 1 0 4 1 0 0].map (fun a => (polledSession .ending 0 (some 4) id, a))

theorem witness_BayPollsMoveTheBay_session :
    (∀ c ∈ endingPolls, GoodPoll c.1 (attemptOf ⟨some (.bay 23), .poll⟩ false) (.bay 23) c.2
      ∧ (c.1.bayOf 23).state.eligible = true ∧ c.1.openSession 23 ≠ none
      ∧ (c.1.recOf (.bay 23)).energy = some (bayReport c.2.payload).energy)
    ∧ (∀ c ∈ finalPolls, GoodPoll c.1 (attemptOf ⟨some (.bay 23), .poll⟩ false) (.bay 23) c.2
      ∧ (c.1.bayOf 23).state = .ending ∧ c.1.openSession 23 ≠ none) :=
  ⟨goodPolls endingPolls (·.1) (·.2) _ (by decide +kernel), goodPolls finalPolls (·.1) (·.2) _ (by decide +kernel)⟩

/-- FREE authority: a vehicle that comes to a VACANT and to a FAULTED bay, and one whose opening is pending; with room, without
a number or a place in the table, and without a tariff. -/
def freePolls : List (State × BayState × Bool × Bool × Bool) :=
  [BayState.vacant, .faulted, .plugged].flatMap (fun st =>
    [(true, false, true), (false, false, true), (true, true, true), (true, false, false)].map (fun c =>
      ({ polledBay st 0 (some 4) (fun r => { r with freePending := decide (st = .plugged) }) with
          site.settings.freeAuthority := 1, price.sessions := ⟨some 64, 64, c.1, some 64⟩,
          sess.table := if c.2.1 then List.replicate 32 { pricedSession with bay := 0, isOpen := false } else [],
          price.bands := if c.2.2 then [⟨0, 40, 20, 30, 5, false⟩] else [] }, st, c)))

theorem witness_BayPollsMoveTheBay_free : ∀ c ∈ freePolls,
    GoodPoll c.1 (attemptOf ⟨some (.bay 23), .poll⟩ false) (.bay 23) (bayAnswer 1 0 4 0 0 0)
      ∧ (c.1.bayOf 23).state = c.2.1 ∧ c.1.openSession 23 = none ∧ (c.1.recOf (.bay 23)).energy = some 4
      ∧ c.1.freeOn = true ∧ (c.1.bayOf 23).parkPending = false
      ∧ (c.2.1 = .plugged → (c.1.bayOf 23).freePending = true) ∧ c.1.price.unlockPending = false
      ∧ c.1.price.sessions.valid = c.2.2.1 ∧ c.1.price.sessions.next = some 64
      ∧ (32 ≤ c.1.sess.table.length ↔ c.2.2.2.1 = true) ∧ (c.1.price.bands ≠ [] ↔ c.2.2.2.2 = true)
      ∧ (let r := bayReport (bayAnswer 1 0 4 0 0 0).payload
         r.energy = 4 ∧ r.fault = 0 ∧ r.present = true ∧ r.stop = false) :=
  goodPolls freePolls (·.1) (fun _ => bayAnswer 1 0 4 0 0 0) _ (by decide +kernel)

theorem test_free_opens : ((freePolls.head?).map (fun c =>
    (after (.answerReceived (bayAnswer 1 0 4 0 0 0)) c.1).sess.table.map (fun z => (z.number, z.authority)))) = some [(64, .free)] := by
  decide +kernel

/-- A POLL answered by a target in a link state with missed polls, with something to send again. -/
def resending (t : Target) (link : LinkState) (missed : Nat) (again : ResendSet) : State :=
  let s := put running 23 .plugged 0
  waiting (s.setRec t { namedRec t with link := link, missed := missed, resend := again, energy := some 4 }) ⟨some t, .poll⟩ false

/-- The UNNAMED status, and the end of a silence, of a bay, a string and the store converter; a PARKED bay; and resend sets of
a bay, a string and the store converter. -/
theorem witness_PollAnswersEndSilencesAndResend :
    let all : ResendSet := ⟨some .urgent, true, true, none, none⟩
    let bay := fun (status : Byte) => ([status, 1, 0, 0, 0, 0, 0, 0, 4, 0, 0] ++ List.replicate 9 0 : List Byte)
    ∀ c ∈ ([(.bay 23, .named, 0, .empty, bay 0), (.bay 23, .named, 3, .empty, bay 1), (.bay 23, .parked, 3, all, bay 1),
        (.bay 23, .named, 2, all, bay 1), (.bay 23, .named, 0, ⟨some .ordinary, false, false, none, none⟩, bay 1),
        (.string 5, .named, 0, .empty, [0, 0, 0, 0, 0, 0]), (.string 5, .named, 3, .empty, [1, 0, 0, 0, 0, 0]),
        (.string 5, .named, 2, ⟨none, false, false, some .urgent, none⟩, [1, 0, 0, 0, 0, 0]),
        (.store, .named, 0, .empty, [0, 0, 0, 0, 0, 0, 0, 0, 0]), (.store, .named, 3, .empty, [1, 0, 0, 0, 0, 0, 0, 0, 0]),
        (.store, .named, 2, ⟨none, false, false, none, some .ordinary⟩, [1, 0, 0, 0, 0, 0, 0, 0, 0])] :
        List (Target × LinkState × Nat × ResendSet × List Byte)),
      let s := resending c.1 c.2.1 c.2.2.1 c.2.2.2.1
      let a := answerTo ⟨some c.1, .poll⟩ 7 c.2.2.2.2
      s.Quiet ∧ s.site.run = .run ∧ s.link.bus = .awaiting (attemptOf ⟨some c.1, .poll⟩ false)
        ∧ (c.2.2.2.2.head? = some 1 → answerOk (attemptOf ⟨some c.1, .poll⟩ false) (s.recOf c.1) a = true)
        ∧ answerOk (attemptOf ⟨some c.1, .poll⟩ false) (s.recOf c.1) (answerTo ⟨some c.1, .poll⟩ 0 c.2.2.2.2)
            = decide (c.2.2.2.2.head? = some 0)
        ∧ (s.recOf c.1).link = c.2.1 ∧ (s.recOf c.1).missed = c.2.2.1 ∧ (s.recOf c.1).resend = c.2.2.2.1
        ∧ (s.recOf c.1).fit = .isIn ∧ (s.recOf c.1).energy = some 4 ∧ s.openSession 23 = none
        ∧ (s.bayOf 23).state = .plugged ∧ (s.bayOf 23).freePending = false
        ∧ (let w := bayReport (bay 1)
           w.energy = 4 ∧ w.present = true ∧ w.fault = 0 ∧ w.keypad = none) := by
  intro all bay c h
  refine ⟨quiet_of _ rfl, rfl, rfl, ?_⟩
  revert c
  decide +kernel

/-- The resend set of a bay in each other state: nothing to report, or a report that ends or closes the session. -/
theorem witness_PollAnswersEndSilencesAndResend_states :
    ∀ st ∈ [BayState.vacant, .awaitPower, .charging, .sated, .ending], ∀ faulty : Bool,
      let all : ResendSet := ⟨some .urgent, false, true, none, none⟩
      let s0 := put running 23 st (if st.powered then 1400 else 0)
      let s1 : State := if st = .vacant then s0 else seat s0 23 9
      let s2 : State := { s1 with sess.table := s1.sess.table.map (fun (z : Session) => { z with lastReading := some 4 }) }
      let s := waiting (s2.setRec (.bay 23) { namedRec (.bay 23) with missed := 2, resend := all, energy := some 4 })
        ⟨some (.bay 23), .poll⟩ false
      let a := bayAnswer (if st = .vacant then 0 else 1) (if st = .sated then 500 else 200) 4 (if faulty then 1 else 0) 0 0
      s.Quiet ∧ s.site.run = .run ∧ s.link.bus = .awaiting (attemptOf ⟨some (.bay 23), .poll⟩ false)
        ∧ answerOk (attemptOf ⟨some (.bay 23), .poll⟩ false) (s.recOf (.bay 23)) a = true
        ∧ payloadByte a.payload 0 = 1 ∧ (s.recOf (.bay 23)).link = .named ∧ (s.recOf (.bay 23)).missed < 3
        ∧ (s.bayOf 23).state = st ∧ (s.bayOf 23).parkPending = false ∧ s.queued .park (.bay 23) = false
        ∧ (s.bayOf 23).lowStart = none ∧ (s.bayOf 23).highCount = 0
        ∧ (∀ z ∈ s.sess.table, z.lastReading = some (bayReport a.payload).energy)
        ∧ (s.recOf (.bay 23)).energy = some (bayReport a.payload).energy := by
  intro st hst faulty
  refine ⟨quiet_of _ ?_, ?_⟩
  · revert faulty st
    decide +kernel
  · revert faulty st
    decide +kernel

def otherSegment : Segment := ⟨2, 7, 30, 20, 10, 1, 0, 0⟩

/-- The last reading before an answer of 5 Wh: none, the same, one that is greater, one that is less; in each state of a bay
with an OPEN session. -/
def readings : List (State × BayState × Option Nat) :=
  [BayState.awaitPower, .charging, .sated, .ending].flatMap (fun st => [none, some 5, some 6, some 4].map (fun l =>
    (polledSession st 1400 l (fun z => { z with limit := some 2, total := if st = .ending then 1 else 0 }), st, l)))

theorem witness_BayPollsChargeTheSession_energy : ∀ c ∈ readings,
    GoodPoll c.1 (attemptOf ⟨some (.bay 23), .poll⟩ false) (.bay 23) (bayAnswer 1 0 5 0 0 0)
      ∧ (c.1.bayOf 23).state = c.2.1 ∧ (c.1.recOf (.bay 23)).energy = c.2.2 ∧ c.1.price.receipts.valid = false
      ∧ c.1.queued .park (.bay 23) = false
      ∧ ((c.1.openSession 23).map (fun z => (z.limit, c.1.segmentsFor z))) = some (some 2, [], false)
      ∧ ((c.1.openSession 23).map (fun z => (closedRecord 1000 100 [] z).isVoid)) = some (decide (c.2.1 ≠ .ending))
      ∧ (let r := bayReport (bayAnswer 1 0 5 0 0 0).payload
         r.energy = 5 ∧ r.fault = 0 ∧ r.present = true ∧ r.stop = false) :=
  goodPolls readings (·.1) (fun _ => bayAnswer 1 0 5 0 0 0) _ (by decide +kernel)

/-- A limit reached by 1 Wh; a 17th segment; a counter that fell while a PARK is queued. -/
theorem witness_BayPollsChargeTheSession_limits :
    let a := bayAnswer 1 0 5 0 0 0
    let x := attemptOf ⟨some (.bay 23), .poll⟩ false
    let reached := polledSession .charging 1400 (some 4) (fun z => { z with limit := some 1 })
    let full := { polledSession .sated 1400 (some 4) (fun z => { z with segments := List.replicate 16 otherSegment }) with
      price.bands := [⟨0, 40, 20, 30, 5, false⟩] }
    let parking := { polledSession .charging 1400 (some 6) id with
      link.urgent := [⟨⟨some (.bay 23), .park⟩, false, false⟩] }
    (GoodPoll reached x (.bay 23) a ∧ (reached.bayOf 23).state.eligible = true
        ∧ (reached.recOf (.bay 23)).energy = some 4
        ∧ ((reached.openSession 23).map (fun z => (z.limit, z.total, reached.segmentsFor z))) = some (some 1, 0, [], false))
      ∧ (GoodPoll full x (.bay 23) a ∧ (full.bayOf 23).state.eligible = true ∧ (full.recOf (.bay 23)).energy = some 4
        ∧ ((full.openSession 23).map (fun z => (z.limit, (full.segmentsFor z).2))) = some (none, true))
      ∧ (GoodPoll parking x (.bay 23) a ∧ (parking.recOf (.bay 23)).energy = some 6
        ∧ parking.queued .park (.bay 23) = true) :=
  ⟨⟨goodPoll_of (by decide +kernel), by decide +kernel⟩, ⟨goodPoll_of (by decide +kernel), by decide +kernel⟩,
    ⟨goodPoll_of (by decide +kernel), by decide +kernel⟩⟩

/-- The draw of a bay with its session at 199 W, 200 W, 500 W and 501 W; low for 119 s and for 120 s, and high a second
time. -/
def drawPolls : List (State × AnswerFrame × BayState × Nat × Option Nat × Nat) :=
  [(BayState.charging, 199, none, 0), (.charging, 200, none, 0), (.sated, 500, none, 0), (.sated, 501, none, 0),
    (.charging, 199, some 881, 0), (.charging, 199, some 880, 0), (.sated, 501, none, 1)].map (fun c =>
      (seat (polledBay c.1 1400 (some 5) ({ · with lowStart := c.2.2.1, highCount := c.2.2.2 })) 23 9,
        bayAnswer 1 c.2.1 5 0 0 0, c))

theorem witness_BayPollsChargeTheSession_draw : ∀ c ∈ drawPolls,
    GoodPoll c.1 (attemptOf ⟨some (.bay 23), .poll⟩ false) (.bay 23) c.2.1 ∧ (c.1.openSession 23).isSome = true
      ∧ (c.1.recOf (.bay 23)).energy = some 5 ∧ (bayReport c.2.1.payload).energy = 5
      ∧ (c.1.bayOf 23).state = c.2.2.1 ∧ (bayReport c.2.1.payload).power = c.2.2.2.1
      ∧ (c.1.bayOf 23).lowStart = c.2.2.2.2.1 ∧ (c.1.bayOf 23).highCount = c.2.2.2.2.2 ∧ c.1.xchg.clock = 1000 :=
  goodPolls drawPolls (·.1) (·.2.1) _ (by decide +kernel)

/-- A keypad code that no voucher bears, with a cooldown at its end; and one that an ISSUED voucher bears. -/
theorem witness_BayPollsChargeTheSession_keypad :
    let x := attemptOf ⟨some (.bay 23), .poll⟩ false
    let a := bayAnswer 1 0 5 0 1 0
    let code : BitVec 64 := 0x3030303030303030
    let wrong := polledBay .plugged 0 (some 5) ({ · with cooldown := some 1000 })
    let right := { polledBay .plugged 0 (some 5) id with
      price.bands := [⟨0, 40, 20, 30, 5, false⟩], price.sessions := ⟨some 65, 64, true, some 64⟩,
      sess.vouchers := [⟨code, .amount, 150, 1001, false⟩] }
    (GoodPoll wrong x (.bay 23) a ∧ (wrong.bayOf 23).state = .plugged ∧ (wrong.bayOf 23).cooldown = some 1000
        ∧ wrong.xchg.clock = 1000 ∧ wrong.sess.vouchers = [] ∧ wrong.openSession 23 = none
        ∧ (wrong.bayOf 23).parkPending = false ∧ (wrong.bayOf 23).freePending = false ∧ wrong.freeOn = false
        ∧ (bayReport a.payload).keypad = some code)
      ∧ (GoodPoll right x (.bay 23) a ∧ (right.bayOf 23).state = .plugged ∧ (right.bayOf 23).cooldown = none
        ∧ (right.bayOf 23).parkPending = false ∧ (right.bayOf 23).freePending = false ∧ right.freeOn = false
        ∧ (∃ v ∈ right.sess.vouchers, v.code = code ∧ v.inUse = false ∧ right.xchg.clock < v.expiry)
        ∧ right.price.bands ≠ [] ∧ right.price.unlockPending = false ∧ right.price.sessions.valid = true
        ∧ right.price.sessions.next = some 65 ∧ right.sess.table.length < 32) :=
  ⟨⟨goodPoll_of (by decide +kernel), by decide +kernel⟩, ⟨goodPoll_of (by decide +kernel), by decide +kernel⟩⟩

/-- The four cases of a segment list's last segment: the band in force, an empty one, one with room behind it, and none. -/
theorem witness_BayPollsChargeTheSession_segments :
    ([otherSegment].getLast? = some otherSegment ∧ otherSegment.band = 2 ∧ otherSegment.generation = 7)
      ∧ ((⟨2, 7, 30, 20, 10, 0, 0, 0⟩ : Segment).sun + 0 + 0 = 0 ∧ (2 : Nat) ≠ 3)
      ∧ ((List.replicate 15 otherSegment).getLast? = some otherSegment ∧ (List.replicate 15 otherSegment).length < 16)
      ∧ ((List.replicate 16 otherSegment).getLast? = some otherSegment ∧ 16 ≤ (List.replicate 16 otherSegment).length) := by
  decide


theorem witness_SweepsVisitEverySlotOnce :
    running.Quiet ∧ running.xchg.sweeping = none ∧ running.xchg.wakePending = false ∧ running.restartDue = none
      ∧ (∀ i : Fin 48, running.xchg.mem.word (slotBase i) ≠ slotFilled)
      ∧ running.xchg.mem.word 0x0F01 = running.rcpt.readMark
      ∧ running.xchg.mem.word 0x0E00 = running.rcpt.short.seen ∧ running.xchg.mem.word 0x0E80 = running.rcpt.long.seen
      ∧ (∀ c, running.rcpt.short.copies.head? = some c → c.skip = false)
      ∧ (∀ c, running.rcpt.long.copies.head? = some c → c.skip = false) ∧ running.xchg.timersOn = true :=
  ⟨running_quiet, rfl, rfl, rfl, by decide +kernel, rfl, rfl, rfl, (fun _ h => by cases h), (fun _ h => by cases h), rfl⟩

/-- Two receipts are unread, and the host has written the read mark behind both. -/
def twoRead : State := { running with rcpt.write := 2, xchg.mem := [(2 * 0x0F01 + 1, 2)] }

/-- Two receipts are unread, and the host has written a read mark: behind both, and beyond them. -/
def readMark (mark : Byte) : State := { running with rcpt.write := 2, xchg.mem := [(2 * 0x0F01 + 1, mark)] }

/-- The host has written one entry and the write index of an offer list: slip `slip`, or slip 130 for the long list; with
`index` for the seen write index, and the copies the part holds. -/
def offered (long : Bool) (index slip : Word) (seen : Word) (copies : List OfferCopy) : State :=
  ((running.setOffers long ⟨0, seen, copies⟩).writeWords (offerBase long) [index]).writeWords (offerEntry long seen) [slip]

theorem sweepReady_of (s : State) (h : (!s.inReset && decide (s.roundsAsked = 0) && decide (s.pageAsks = 0)
    && (s.price.active.isSome || s.price.queue.isEmpty)) = true)
    (k : s.xchg.sweeping = none ∧ s.xchg.wakePending = false ∧ s.restartDue = none) : s.SweepReady :=
  ⟨quiet_of s h, k.1, k.2.1, k.2.2⟩

theorem witness_SweepTakesTheHostsIndexes_mark : ∀ mark ∈ [(2 : Byte), 3],
    (readMark mark).SweepReady ∧ (readMark mark).xchg.mem.filledOnly [] ∧ (∀ x ∈ (readMark mark).sess.table, x.isOpen = true)
      ∧ (readMark mark).xchg.timersOn = true ∧ (readMark mark).rcpt.short.copies = [] ∧ (readMark mark).rcpt.long.copies = []
      ∧ (readMark mark).xchg.mem.word 0x0E00 = (readMark mark).rcpt.short.seen
      ∧ (readMark mark).xchg.mem.word 0x0E80 = (readMark mark).rcpt.long.seen
      ∧ (readMark mark).xchg.mem.word 0x0F01 = mark.setWidth 16 ∧ (readMark mark).rcpt.readMark = 0
      ∧ (readMark mark).rcpt.write = 2 := by
  have k : ∀ mark ∈ [(2 : Byte), 3], (∀ i : Fin 48, i ∉ [] → (readMark mark).xchg.mem.word (slotBase i) ≠ slotFilled)
      ∧ (readMark mark).xchg.mem.word 0x0E00 = (readMark mark).rcpt.short.seen
      ∧ (readMark mark).xchg.mem.word 0x0E80 = (readMark mark).rcpt.long.seen
      ∧ (readMark mark).xchg.mem.word 0x0F01 = mark.setWidth 16 := by decide +kernel
  exact fun mark h => ⟨sweepReady_of _ rfl ⟨rfl, rfl, rfl⟩, (k mark h).1, (fun _ hx => by cases hx), rfl, rfl, rfl,
    (k mark h).2.1, (k mark h).2.2.1, (k mark h).2.2.2, rfl, rfl⟩

/-- A write index one beyond the list; a first entry that passes the screen at the bound of its range; one that fails it,
with copies before it and without. -/
def offerCases : List (State × Bool) :=
  [(offered false 65 3 0 [], false), (offered true 33 130 0 [], true), (offered false 1 127 0 [], false),
    (offered true 1 128 0 [], true), (offered false 1 128 0 [], false), (offered true 1 160 0 [], true),
    (offered false 2 3 1 [⟨3, false⟩], false), (offered true 2 127 1 [⟨128, false⟩], true)]

theorem witness_SweepTakesTheHostsIndexes_offers : ∀ c ∈ offerCases,
    c.1.SweepReady ∧ c.1.xchg.mem.filledOnly [] ∧ c.1.sess.table = [] ∧ c.1.xchg.mem.word 0x0F01 = c.1.rcpt.readMark
      ∧ c.1.xchg.mem.word (offerBase (!c.2)) = (c.1.offers (!c.2)).seen
      ∧ (∀ l : Bool, ((c.1.offers l).copies.head?.map (·.skip)).getD false = false) := by
  have h : ∀ c ∈ offerCases, ((!c.1.inReset && decide (c.1.roundsAsked = 0) && decide (c.1.pageAsks = 0)
        && (c.1.price.active.isSome || c.1.price.queue.isEmpty)) = true)
      ∧ (c.1.xchg.sweeping = none ∧ c.1.xchg.wakePending = false ∧ c.1.restartDue = none)
      ∧ (∀ i : Fin 48, i ∉ [] → c.1.xchg.mem.word (slotBase i) ≠ slotFilled) ∧ c.1.sess.table = []
      ∧ c.1.xchg.mem.word 0x0F01 = c.1.rcpt.readMark ∧ c.1.xchg.mem.word (offerBase (!c.2)) = (c.1.offers (!c.2)).seen
      ∧ (∀ l : Bool, ((c.1.offers l).copies.head?.map (·.skip)).getD false = false) := by decide +kernel
  exact fun c hc => ⟨sweepReady_of _ (h c hc).1 (h c hc).2.1, (h c hc).2.2⟩

/-- Slot 47 is FILLED: with a kind word, its complement changed by `pair`, its check word by `check`, and a body. -/
def filledSlot (s : State) (kind pair check : Word) (body : List Word) : State :=
  s.writeWords (slotBase 47)
    ([slotFilled, kind, ~~~kind ^^^ pair, 9, xorWords (padBody body) ^^^ check] ++ padBody body)

/-- A wrong pair; a wrong check of a short kind, of no kind and of a long kind; no kind; a long kind with all places in use;
and SET_CLOCK with an offset at its upper bound. -/
def slotCases : List State :=
  [filledSlot running 1 1 0 [], filledSlot running 1 0 1 [], filledSlot running 0 0 1 [], filledSlot running 4 0 1 [3],
    filledSlot running 0xFFFF 0 0 [], filledSlot { running with xchg.holder := fullHolder } 4 0 0 [3],
    filledSlot running Kind.setClock.code 0 0 (bodySetClock 77 50400)]

theorem witness_SweepsTakeFilledSlots :
    (∀ s ∈ slotCases, s.SweepReady ∧ s.ListsAsSeen ∧ s.xchg.mem.filledOnly [47]
      ∧ s.xchg.mem.word (slotBase 47) = slotFilled ∧ s.xchg.timersOn = true)
    ∧ slotCases.map (fun s => (decide (s.xchg.mem.word (slotBase 47 + 2) = ~~~s.xchg.mem.word (slotBase 47 + 1)),
        decide (s.xchg.mem.word (slotBase 47 + 4) = xorWords (s.xchg.mem.words (slotBase 47 + 5) 24)),
        (Kind.ofCode (s.xchg.mem.word (slotBase 47 + 1))).map Kind.isLong, decide (s.freePlace = none)))
      = [(false, true, some false, false), (true, false, some false, false), (true, false, none, false),
        (true, false, some true, false), (true, true, none, false), (true, true, some true, true),
        (true, true, some false, false)]
    ∧ inHostArea (0x7FE6 : Word).toNat 27 = false ∧ inHostArea (0x7FFF : Word).toNat (2 + 5 * 0) = false
    ∧ (∃ p : Fin 8, running.xchg.holder[p] = none) := by
  have h : ∀ s ∈ slotCases, ((!s.inReset && decide (s.roundsAsked = 0) && decide (s.pageAsks = 0)
        && (s.price.active.isSome || s.price.queue.isEmpty)) = true)
      ∧ (s.xchg.sweeping = none ∧ s.xchg.wakePending = false ∧ s.restartDue = none)
      ∧ s.xchg.mem.word 0x0F01 = s.rcpt.readMark ∧ s.xchg.mem.word 0x0E00 = s.rcpt.short.seen
      ∧ s.xchg.mem.word 0x0E80 = s.rcpt.long.seen ∧ s.rcpt.short.copies = [] ∧ s.rcpt.long.copies = []
      ∧ (∀ i : Fin 48, i ∉ [(47 : Fin 48)] → s.xchg.mem.word (slotBase i) ≠ slotFilled)
      ∧ s.xchg.mem.word (slotBase 47) = slotFilled ∧ s.xchg.timersOn = true := by decide +kernel
  refine ⟨fun s hs => ?_, by decide +kernel, by decide, by decide, 0, by decide +kernel⟩
  obtain ⟨q, k, m, so, lo, sc, lc, f, w⟩ := h s hs
  exact ⟨sweepReady_of s q k, ⟨m, so, lo, (fun c e => by rw [sc] at e; cases e), (fun c e => by rw [lc] at e; cases e)⟩, f, w⟩


def crowded : State := { running with xchg.holder := fullHolder }

theorem witness_LongRequestsAreDeferred : crowded.Quiet ∧ ∀ p : Fin 8, crowded.xchg.holder[p] ≠ none :=
  ⟨quiet_of _ rfl, by decide +kernel⟩

theorem witness_HaltedRefusesNotRunning :
    halted.Quiet ∧ halted.site.run = .halted ∧ ∃ p : Fin 8, halted.xchg.holder[p] = none := ⟨halted_quiet, rfl, 0, by decide +kernel⟩

/-- Slot 0 is TAKEN under ticket 9. -/
def takenSlot : Memory := [(1, 2), (7, 9)]

theorem witness_AnswersAreWrittenOrLost :
    (running.xchg.mem.word (slotBase 0) ≠ slotTaken)
      ∧ (let s := { running with xchg.mem := takenSlot }
         s.xchg.mem.word (slotBase 0) = slotTaken ∧ s.xchg.mem.word (slotBase 0 + 3) ≠ 8)
      ∧ (let s := { running with xchg.mem := takenSlot }
         s.xchg.mem.word (slotBase 0) = slotTaken ∧ s.xchg.mem.word (slotBase 0 + 3) = 9) := by decide +kernel

/-- The bounds of the offset; and, under the lock, a clock 120 s ahead. -/
theorem witness_SetClockSetsTheClock :
    running.Quiet ∧ (-50400 ≤ (-50400 : DWord).toInt ∧ (50400 : DWord).toInt ≤ 50400) ∧ running.price.locked = false
      ∧ (let s := { running with price.locked := true }
         s.Quiet ∧ ((1120 : DWord).toNat : Int) - s.xchg.clock ≤ 120 ∧ (s.xchg.clock : Int) - (1120 : DWord).toNat ≤ 120
          ∧ (1120 : DWord).toNat + (0 : DWord).toInt - (s.xchg.clock + s.xchg.offset) ≤ 120
          ∧ s.xchg.clock + s.xchg.offset - ((1120 : DWord).toNat + (0 : DWord).toInt) ≤ 120) :=
  ⟨running_quiet, by decide, rfl, quiet_of _ rfl, by decide +kernel⟩

def siteFields : SiteSettings :=
  { SiteSettings.reset with importCap := 40000, feederLimit := 60000, dischargeLimit := 5000, chargeLimit := 5000 }

theorem witness_SetSiteSetsTheFields :
    running.Quiet ∧ inHostArea (0x1200 : Word).toNat 27 = true ∧ inHostArea (0x7FE5 : Word).toNat 27 = true
      ∧ siteFields.wellFormed = true ∧ Machine.SiteSettings.inRange siteFields = true
      ∧ running.price.locked = false ∧ siteFields.idleGrace = running.site.settings.idleGrace
      ∧ fixedOf siteFields = running.site.inForce
      ∧ (let t := { siteFields with fittedOverride := 8 }
         Machine.SiteSettings.inRange t = true ∧ t.wellFormed = true ∧ fixedOf t ≠ halted.site.inForce
          ∧ halted.site.run = .halted ∧ ∀ x ∈ running.sess.table, x.isOpen = false) :=
  ⟨running_quiet, by decide, by decide, by decide, by decide, rfl, rfl, rfl, by decide, by decide, by decide, rfl,
    (fun _ h => by cases h)⟩

/-- A hold in each state under an active line, the store converter in READY with 50.0 % and an order of 4000 W, and a bay whose
FREE opening is pending. -/
def sited (st : HoldState) : State :=
  let s := (put running 23 .plugged 0).setRec .store { namedRec .store with issuedSetpoint := .watts 4000 }
  { s.setBay 23 { s.bayOf 23 with freePending := true } with
    site.settings := { siteFields with holdLineLimit := 9000, freeAuthority := 1 },
    hold := ⟨true, none, st, none, 1, decide (st = .met)⟩, allot.setpoint := .watts 4000, allot.stance := .supporting,
    store.link := .up, store.rating := 100, store.soc := some 500, store.condition := .ready,
    store.discharge := 5000, store.charge := 5000 }

/-- A lower line limit; a reserve floor at the state of charge; a discharge limit below the order; FREE authority off. -/
theorem witness_SetSiteSetsTheFields_live :
    let t : SiteSettings := { siteFields with holdLineLimit := 8000, reserveFloor := 500, dischargeLimit := 3000 }
    t.wellFormed = true ∧ Machine.SiteSettings.inRange t = true ∧ t.freeAuthority = 0
      ∧ ∀ st ∈ [HoldState.requested, .met, .missed], let s := sited st
        s.Quiet ∧ s.price.locked = false ∧ fixedOf t = s.site.inForce ∧ s.hold.lineActive = true ∧ s.hold.state = st
          ∧ t.holdLineLimit < s.site.settings.holdLineLimit ∧ t.reserveFloor ≠ s.site.settings.reserveFloor
          ∧ conditionOf s.store.link s.store.gridAbsent s.store.fault true = .reserve
          ∧ s.allot.setpoint = .watts 4000 ∧ (s.recOf .store).link = .named
          ∧ (s.recOf .store).issuedSetpoint = .watts 4000 := by
  refine ⟨by decide, by decide, rfl, fun st hst => ⟨quiet_of _ rfl, rfl, ?_⟩⟩
  revert st
  decide +kernel

theorem test_site_live :
    let t : SiteSettings := { siteFields with holdLineLimit := 8000, dischargeLimit := 3000 }
    let u := after (.setSite 3 9 0x1200 t) (sited .met)
    (u.hold, u.store.discharge, u.allot.setpoint, (u.bayOf 23).freePending)
      = (⟨true, none, .requested, some 160, 0, false⟩, 3000, .watts 3000, false) := by decide +kernel

/-- Bay 24 is PLUGGED under a tariff, and a session number is at hand. -/
def readyBay : State := { put running 23 .plugged 0 with
  price.bands := [⟨0, 40, 20, 30, 5, false⟩], price.sessions := ⟨some 65, 64, true, some 64⟩ }

theorem witness_AuthoriseOpensASession :
    readyBay.Quiet ∧ readyBay.site.run = .run ∧ (24 : Word).toNat = (23 : BayIx).val + 1
      ∧ (readyBay.bayOf 23).state = .plugged ∧ (readyBay.bayOf 23).parkPending = false ∧ readyBay.price.bands ≠ []
      ∧ readyBay.price.unlockPending = false ∧ readyBay.price.sessions.valid = true
      ∧ readyBay.price.sessions.next = some 65 ∧ readyBay.sess.table.length < 32 :=
  ⟨quiet_of _ rfl, rfl, rfl, by decide +kernel, by decide +kernel, by decide +kernel, rfl, rfl, rfl, by decide +kernel⟩

theorem witness_StopSessionEndsTheSession :
    twoBays.Quiet ∧ twoBays.site.run = .run ∧ (1 : Word).toNat = (0 : BayIx).val + 1
      ∧ (twoBays.bayOf 0).state.eligible = true ∧ (twoBays.bayOf 1).state.eligible = true ∧ twoBays.freePlace = some 0 :=
  ⟨quiet_of _ rfl, rfl, rfl, by decide +kernel, by decide +kernel, by decide +kernel⟩

theorem witness_ParkBayAsksThePark :
    (∀ st : BayState, st = .vacant ∨ st = .plugged ∨ st = .faulted →
      let s := put (nameTarget running (.bay 23)) 23 st 0
      s.Quiet ∧ s.site.run = .run ∧ s.freePlace = some 0 ∧ (s.bayOf 23).state = st ∧ (s.bayOf 23).session = none
        ∧ (s.bayOf 23).parkPending = false ∧ (s.recOf (.bay 23)).link = .named)
      ∧ (24 : Word).toNat = (23 : BayIx).val + 1
      ∧ (let s := put running 23 .parked 0
         s.Quiet ∧ s.site.run = .run ∧ s.freePlace = some 0 ∧ (s.bayOf 23).state = .parked) := by
  refine ⟨?_, rfl, quiet_of _ rfl, rfl, by decide +kernel, by decide +kernel⟩
  rintro st (rfl | rfl | rfl) <;> exact ⟨quiet_of _ rfl, rfl, by decide +kernel⟩

theorem witness_ReturnBayStartsAnEnrolment :
    let s := put running 23 .parked 0
    s.Quiet ∧ s.site.run = .run ∧ (24 : Word).toNat = (23 : BayIx).val + 1 ∧ s.freePlace = some 0
      ∧ (s.bayOf 23).state = .parked ∧ (s.recOf (.bay 23)).fit = .isIn :=
  ⟨quiet_of _ rfl, rfl, rfl, by decide +kernel⟩

/-- Eight bays are fitted: bay 8 and the other targets can be enrolled, bay 9 cannot. -/
def eightBays : State := { running with site.inForce := ⟨8, 0, 0⟩ }

theorem witness_EnrolBayStartsARollCall :
    eightBays.Quiet ∧ eightBays.site.run = .run ∧ eightBays.freePlace = some 0
      ∧ Target.ofAddress (8 : Word).toNat = some (.bay 7) ∧ eightBays.isBeyond (.bay 7) = false
      ∧ Target.ofAddress (41 : Word).toNat = some (.string 0) ∧ eightBays.isBeyond (.string 0) = false
      ∧ Target.ofAddress (46 : Word).toNat = some (.string 5) ∧ eightBays.isBeyond (.string 5) = false
      ∧ Target.ofAddress (50 : Word).toNat = some .store ∧ eightBays.isBeyond .store = false
      ∧ Target.ofAddress (9 : Word).toNat = some (.bay 8) ∧ eightBays.isBeyond (.bay 8) = true :=
  ⟨quiet_of _ rfl, rfl, by decide +kernel⟩

def oneVoucher : State := { running with sess.vouchers := [⟨0x3430373138383233, .amount, 150, 2000, false⟩] }

theorem witness_VouchersArePostedAndWithdrawn :
    (running.Quiet ∧ codeIsDigits 0x3430373138383233 = true ∧ running.xchg.clock < (1001 : DWord).toNat
      ∧ (1 ≤ (1 : Word).toNat ∧ (100 : Word).toNat ≤ 100) ∧ (∀ v ∈ running.sess.vouchers, v.code ≠ 0x3430373138383233)
      ∧ running.sess.vouchers.length < 64)
      ∧ (oneVoucher.Quiet ∧ (∃ v ∈ oneVoucher.sess.vouchers, v.code = 0x3430373138383233)
        ∧ ∀ v ∈ oneVoucher.sess.vouchers, v.code = 0x3430373138383233 → v.inUse = false) :=
  ⟨⟨running_quiet, by decide +kernel⟩, quiet_of _ rfl, by decide +kernel⟩

theorem witness_StoreRequestsAskTheirWrite :
    (running.Quiet ∧ running.freePlace = some 0 ∧ inHostArea (0x7FF9 : Word).toNat (2 + 5 * 1) = true
      ∧ tariffInRange [⟨0, 40, 20, 30, 5, false⟩] = true ∧ running.price.locked = false ∧ running.price.active = none)
      ∧ (readyBay.Quiet ∧ readyBay.freePlace = some 0 ∧ readyBay.price.locked = false ∧ readyBay.price.bands ≠ [])
      ∧ (let s := { running with price.locked := true }
         s.Quiet ∧ s.freePlace = some 0 ∧ s.price.locked = true ∧ s.sess.table = [])
      ∧ (writingTariff.Quiet ∧ writingTariff.freePlace = some 0 ∧ writingTariff.price.active ≠ none
        ∧ writingTariff.price.locked = false) :=
  ⟨⟨running_quiet, by decide +kernel⟩, ⟨quiet_of _ rfl, by decide +kernel⟩, ⟨quiet_of _ rfl, by decide +kernel⟩,
    ⟨quiet_of _ rfl, by decide +kernel⟩⟩

theorem witness_SetCountersGivesTheNumbers :
    halted.Quiet ∧ halted.site.run = .halted ∧ (4294967232 : DWord).toNat ≤ 4294967232
      ∧ (halted.price.damaged.session = false → ∀ n, halted.price.sessions.next = some n → n ≤ (64 : DWord).toNat)
      ∧ (halted.price.damaged.receipt = false → ∀ n, halted.price.receipts.next = some n → n ≤ (64 : DWord).toNat) := by
  refine ⟨halted_quiet, rfl, by decide, ?_, ?_⟩ <;>
    (intro _ n h; rw [show n = 64 from (Option.some.inj h).symm]; decide)

theorem witness_GridHoldSetsTheRequestSource :
    running.Quiet ∧ running.site.run = .run ∧ running.freePlace = some 0 ∧ (1000000 : DWord).toNat ≤ 1000000
      ∧ (1 ≤ (1 : Word).toNat ∧ (240 : Word).toNat ≤ 240) ∧ running.hold.lineActive = false
      ∧ running.hold.request = none ∧ running.hold.state = .clear :=
  ⟨running_quiet, rfl, by decide +kernel⟩

/-- Place 3 holds the request of slot 3 under ticket 9; in the second state its slot is TAKEN by it. -/
theorem witness_CancelWithdrawsTheHeldRequest :
    let h : Held := ⟨3, 9, Kind.stopSession.code, padBody [3]⟩
    crowded.Quiet ∧ crowded.site.run = .run ∧ (3 : Word).toNat = (3 : Fin 48).val ∧ (3 : Fin 48) ≠ 40
      ∧ crowded.placeOf 3 9 = some 3 ∧ crowded.xchg.holder[3] = some h ∧ crowded.writing 3 = false
      ∧ crowded.xchg.mem.word (slotBase 3) ≠ slotTaken
      ∧ (let m : Memory := [(193, 2), (199, 9)]
         m.word (slotBase 3) = slotTaken ∧ m.word (slotBase 3 + 3) = 9) :=
  ⟨quiet_of _ rfl, rfl, by decide +kernel⟩

/-- Each kind with a withdrawal of its own: a queued store write, a PARK in its three places, a GRID_HOLD. -/
theorem witness_CancelWithdrawsTheHeldRequest_kinds :
    ∀ k ∈ [Kind.setTariff, .lockTariff, .unlockTariff, .parkBay, .gridHold, .stopSession], ∀ line : Bool,
      let h : Held := ⟨3, 9, k.code, padBody [24]⟩
      let x : Exchange := ⟨⟨some (.bay 23), .park⟩, .urgent, 7, false, false, false⟩
      let s := { running with
        xchg.holder := running.xchg.holder.set 3 (some h), price.queue := [.lock (some 3)],
        price.active := some ⟨.block .session 64, ⟨[], 0, false, 0⟩⟩, link.bus := .awaiting x,
        link.urgent := [⟨⟨some (.bay 23), .park⟩, false, false⟩],
        hold := ⟨line, some ⟨9, 160, some 3⟩, .requested, some 150, 0, false⟩ }
      s.Quiet ∧ s.site.run = .run ∧ s.placeOf 3 9 = some 3 ∧ s.xchg.holder[3] = some h ∧ s.writing 3 = false
        ∧ (bodyWord h.body 0).toNat = (23 : BayIx).val + 1 ∧ x.frame = ⟨some (.bay 23), .park⟩
        ∧ s.link.bus = .awaiting x ∧ s.hold.request ≠ none ∧ s.hold.lineActive = line
        ∧ (s.price.queue.filter (fun j => decide (j.place ≠ some 3))).length < s.price.queue.length := by
  intro k hk line
  refine ⟨quiet_of _ rfl, rfl, ?_⟩
  revert k line
  decide +kernel

/-- The site clock at the end of the interval in force, and one second before it. -/
theorem witness_ClockAdvancesAndIntervalsEnd :
    (let s := { running with meter.intervalStart := 100 }
     s.Quiet ∧ s.meter.intervalStart + 900 ≤ s.xchg.clock)
      ∧ (let s := { running with meter.intervalStart := 101 }
         s.Quiet ∧ s.xchg.clock < s.meter.intervalStart + 900) :=
  ⟨⟨quiet_of _ rfl, by decide +kernel⟩, ⟨quiet_of _ rfl, by decide +kernel⟩⟩

/-- A cooldown and a linger timer that do not run, that have run out, and with one second to go. -/
theorem witness_CooldownsVouchersAndLingersEnd :
    (running.Quiet ∧ (running.bayOf 23).cooldown = none ∧ running.rcpt.linger = none)
      ∧ (let s := { running.setBay 23 { running.bayOf 23 with cooldown := some 1001 } with rcpt.linger := some 101 }
         s.Quiet ∧ (s.bayOf 23).cooldown = some 1001 ∧ s.xchg.clock = 1000 ∧ s.rcpt.linger = some 101 ∧ s.elapsed = 100)
      ∧ (let s := { running.setBay 23 { running.bayOf 23 with cooldown := some 1000 } with
           rcpt.linger := some 100, rcpt.write := 1 }
         s.Quiet ∧ (s.bayOf 23).cooldown = some 1000 ∧ s.xchg.clock = 1000 ∧ s.rcpt.linger = some 100 ∧ s.elapsed = 100) :=
  ⟨⟨running_quiet, by decide +kernel⟩, ⟨quiet_of _ rfl, by decide +kernel⟩, ⟨quiet_of _ rfl, by decide +kernel⟩⟩


theorem witness_StoreWritesTakeEffectWhenTheyPass :
    (writingTariff.Quiet ∧ writingTariff.price.active = some ⟨.tariff (some 0) [], ⟨[], 1, false, 0⟩⟩)
      ∧ (∀ j ∈ [StoreJob.lock none, .unlock none],
          let s := { running with price.active := some ⟨j, ⟨[], 1, false, 0⟩⟩ }
          s.Quiet ∧ s.price.active = some ⟨j, ⟨[], 1, false, 0⟩⟩)
      ∧ (let s := { writingBlock .session with price.sessions := ⟨some 64, 0, false, some 64⟩ }
         s.Quiet ∧ s.price.active = some ⟨.block .session 64, ⟨[], 0, false, 0⟩⟩ ∧ s.price.sessions.asked = some 64)
      ∧ (let s := { writingBlock .receipt with price.receipts := ⟨some 64, 0, false, some 64⟩ }
         s.Quiet ∧ s.price.active = some ⟨.block .receipt 64, ⟨[], 0, false, 0⟩⟩ ∧ s.price.receipts.asked = some 64
          ∧ ∀ x ∈ s.sess.table, x.isOpen = true) :=
  ⟨⟨quiet_of _ rfl, rfl⟩, fun _ _ => ⟨quiet_of _ rfl, rfl⟩, ⟨quiet_of _ rfl, rfl, rfl⟩,
    ⟨quiet_of _ rfl, rfl, rfl, (fun _ h => by cases h)⟩⟩

/-- A request that is still held in its TAKEN slot, for a write of each kind of request. -/
theorem witness_StoreWritesTakeEffectWhenTheyPass_held :
    ∀ j ∈ [StoreJob.tariff (some 0) [], .lock (some 0), .unlock (some 0)],
      let h : Held := ⟨0, 9, Kind.lockTariff.code, padBody []⟩
      let s := { running with
        price.active := some ⟨j, ⟨[], 1, false, 0⟩⟩, xchg.holder := running.xchg.holder.set 0 (some h), xchg.mem := takenSlot }
      s.Quiet ∧ s.price.active = some ⟨j, ⟨[], 1, false, 0⟩⟩ ∧ s.price.queue = [] ∧ j.place = some 0
        ∧ s.xchg.holder[0] = some h ∧ s.xchg.mem.word (slotBase 0) = slotTaken
        ∧ s.xchg.mem.word (slotBase 0 + 3) = 9 := by
  intro j hj
  refine ⟨quiet_of _ rfl, rfl, ?_⟩
  revert j
  decide +kernel

theorem witness_PageRewritesBeginAndEnd :
    (let s := { running with xchg.timersOn := false }
     s.Quiet ∧ s.xchg.timersOn = false)
      ∧ (let s := { running with xchg.rewriteBegan := some 100 }
         s.Quiet ∧ s.xchg.rewriteBegan = some 100 ∧ s.elapsed < 100 + 1)
      ∧ (let s := { running with xchg.rewriteBegan := some 99 }
         s.Quiet ∧ s.xchg.timersOn = true ∧ s.xchg.rewriteBegan = some 99 ∧ 99 + 1 ≤ s.elapsed ∧ s.xchg.rewriting = true
          ∧ s.xchg.rewritePending = false)
      ∧ (halted.Quiet ∧ halted.xchg.timersOn = true ∧ halted.xchg.rewriteBegan = none ∧ halted.xchg.rewriting = false)
      ∧ (let s := { running with xchg.rewritePending := true }
         s.Quiet ∧ s.xchg.rewriting = true ∧ s.xchg.rewritePending = true) :=
  ⟨⟨quiet_of _ rfl, rfl⟩, ⟨quiet_of _ rfl, rfl, by decide +kernel⟩, ⟨quiet_of _ rfl, rfl, rfl, by decide +kernel, rfl, rfl⟩,
    ⟨halted_quiet, rfl, rfl, rfl⟩, ⟨quiet_of _ rfl, rfl, rfl⟩⟩

/-- The first words of the blocks of a rewritten page: two bays, of which bay 24 waits. -/
theorem test_page_blocks :
    let s := put (put { halted with allot.waitList := [23], xchg.clock := 70000 } 0 .charging 1400) 23 .awaitPower 0
    let m := (after .pageTimer s).xchg.mem
    (m.words 0x0601 2, m.words 0x0610 3, m.word 0x0640, m.words 0x0710 3, m.words 0x0730 4, m.word (0x0730 + 230))
      = ([1, 4464], [0xFFFF, 0, 0], natWord s.meter.state.code, [1, 24, 0],
        [natWord BayState.charging.code, 0, 0, 1400], natWord BayState.awaitPower.code) := by decide +kernel

/-- R171: the setpoint in one signed word (-3000 is 0xF448), the form-grid word, the stance and top-up. -/
theorem test_page_setpoint :
    (let s := { halted with allot.setpoint := .watts (-3000), allot.stance := .soaking, store.topUp := true }
     (after .pageTimer s).xchg.mem.words 0x066D 5 = [0xF448, 0, 1, 1, 0])
      ∧ (let s := { halted with allot.setpoint := .formGrid, allot.stance := .idle }
         (after .pageTimer s).xchg.mem.words 0x066D 5 = [0, 1, 3, 0, 0]) := by decide +kernel

def storePoll : Frame := ⟨some .store, .poll⟩

theorem witness_BusTakesTheUrgentLaneFirst :
    (let s := { running with link.urgent := [⟨storePoll, false, false⟩] }
     s.Quiet ∧ s.link.bus = .idle ∧ s.link.urgent = [⟨storePoll, false, false⟩])
      ∧ (let s := { running with link.ordinary := [⟨storePoll, false, false⟩] }
         s.Quiet ∧ s.link.bus = .idle ∧ s.link.urgent = [] ∧ s.link.ordinary = [⟨storePoll, false, false⟩])
      ∧ (running.Quiet ∧ running.link.urgent = [] ∧ running.link.ordinary = [])
      ∧ (let s := { running with link.bus := .window }
         s.Quiet ∧ s.link.bus ≠ .idle) :=
  ⟨⟨quiet_of _ rfl, rfl, rfl⟩, ⟨quiet_of _ rfl, rfl, rfl, rfl⟩, ⟨running_quiet, rfl, rfl⟩, ⟨quiet_of _ rfl, by decide⟩⟩

theorem witness_FramesLeaveAndWindowsEnd :
    (let s := { running with link.bus := .sending (attemptOf storePoll false) }
     s.Quiet ∧ s.link.bus = .sending (attemptOf storePoll false) ∧ storePoll.target = some .store)
      ∧ (let s := { running with link.bus := .sending (attemptOf ⟨none, .name 0⟩ false) }
         s.Quiet ∧ s.link.bus = .sending (attemptOf ⟨none, .name 0⟩ false))
      ∧ (let s := { running with link.bus := .abandoned }
         s.Quiet ∧ s.link.bus = .abandoned)
      ∧ (let s := { running with link.bus := .window }
         s.Quiet ∧ s.link.bus = .window)
      ∧ (running.Quiet ∧ running.link.bus ≠ .window) :=
  ⟨⟨quiet_of _ rfl, rfl, rfl⟩, ⟨quiet_of _ rfl, rfl⟩, ⟨quiet_of _ rfl, rfl⟩, ⟨quiet_of _ rfl, rfl⟩,
    ⟨running_quiet, by decide⟩⟩

/-- The store converter, NAMED with tag 7, has been sent a frame. -/
def awaitingStore (body : FrameBody) (retry : Bool) : State :=
  waiting (nameTarget running .store) ⟨some .store, body⟩ retry

theorem witness_AcknowledgementsFreeTheBus :
    ∀ body ∈ [FrameBody.grant 14, .lock, .release, .show .waiting, .cap 80, .setpoint .formGrid],
      (awaitingStore body false).Quiet
        ∧ (awaitingStore body false).link.bus = .awaiting (attemptOf ⟨some .store, body⟩ false)
        ∧ answerOk (attemptOf ⟨some .store, body⟩ false) ((awaitingStore body false).recOf .store)
            (answerTo ⟨some .store, body⟩ 7 []) = true := by
  intro body h
  refine ⟨quiet_of _ rfl, rfl, ?_⟩
  revert body
  decide +kernel

/-- PARK on the line for bay 24 in a state, with its record in a link state and PARK_BAYs for it held. -/
def parking (st : BayState) (link : LinkState) : State :=
  let s := seat (put running 23 st 0) 23 9
  { waiting (s.setRec (.bay 23) { namedRec (.bay 23) with link := link }) ⟨some (.bay 23), .park⟩ false with
    xchg.holder := Vector.ofFn (fun _ => some ⟨47, 9, Kind.parkBay.code, padBody [24]⟩) }

theorem witness_AcknowledgementsFreeTheBus_park :
    ∀ st ∈ [BayState.vacant, .parked, .charging, .ending], ∀ link ∈ [LinkState.named, .unnamed],
      let s := parking st link
      s.Quiet ∧ s.link.bus = .awaiting (attemptOf ⟨some (.bay 23), .park⟩ false)
        ∧ answerOk (attemptOf ⟨some (.bay 23), .park⟩ false) (s.recOf (.bay 23)) (answerTo ⟨some (.bay 23), .park⟩ 7 []) = true
        ∧ (s.recOf (.bay 23)).link = link ∧ (s.bayOf 23).state = st ∧ s.openSession 23 ≠ none
        ∧ (bodyWord (padBody [24]) 0).toNat = (23 : BayIx).val + 1 := by
  intro st hst link hl
  refine ⟨quiet_of _ rfl, rfl, ?_⟩
  revert link
  revert st
  decide +kernel

/-- A request for another bay is held beside it. -/
theorem witness_AcknowledgementsFreeTheBus_frame :
    let s := { parking .vacant .named with
      xchg.holder := (parking .vacant .named).xchg.holder.set 0 (some ⟨3, 9, Kind.parkBay.code, padBody [23]⟩) }
    s.Quiet ∧ (s.bayOf 23).state.eligible = false ∧ (s.bayOf 23).state ≠ .ending
      ∧ ∀ h, s.xchg.holder[0] = some h → (bodyWord h.body 0).toNat ≠ (23 : BayIx).val + 1 := by
  refine ⟨quiet_of _ rfl, by decide +kernel, by decide +kernel, fun h e => ?_⟩
  cases e
  decide +kernel

/-- A retry sent to bay 24 in a state, with missed polls, in a link state. -/
def retried (body : FrameBody) (st : BayState) (missed : Nat) (link : LinkState) : State :=
  let s := put running 23 st 0
  waiting (s.setRec (.bay 23) { namedRec (.bay 23) with missed := missed, link := link }) ⟨some (.bay 23), body⟩ true

/-- A first attempt; a second missed poll, in ENDING, and a third; a missed WHO and NAME; a command of each kind that is sent
again, without and with a frame of its kind waiting; and a SHOW. -/
theorem witness_FailedAttemptsAreRetriedOnce :
    ((awaitingStore .poll false).Quiet
      ∧ (awaitingStore .poll false).link.bus = .awaiting (attemptOf storePoll false)
      ∧ answerOk (attemptOf storePoll false) ((awaitingStore .poll false).recOf .store) (answerTo storePoll 7 []) = false)
      ∧ (∀ st ∈ [BayState.vacant, .charging, .ending], ∀ missed ∈ [1, 2],
          let s := retried .poll st missed .named
          s.Quiet ∧ s.link.bus = .awaiting (attemptOf ⟨some (.bay 23), .poll⟩ true)
            ∧ (s.recOf (.bay 23)).missed = missed ∧ (s.recOf (.bay 23)).link = .named ∧ (s.bayOf 23).state = st)
      ∧ (∀ body ∈ [FrameBody.who, .name 9],
          let s := { retried body .seeking 0 .unnamed with
            xchg.holder := Vector.ofFn (fun _ => some ⟨47, 9, Kind.enrolBay.code, padBody [24]⟩) }
          s.Quiet ∧ s.link.bus = .awaiting (attemptOf ⟨some (.bay 23), body⟩ true)
            ∧ (attemptOf ⟨some (.bay 23), body⟩ true).stale = false ∧ (s.recOf (.bay 23)).link = .unnamed
            ∧ (s.recOf (.bay 23)).fit = .isIn
            ∧ (bodyWord (padBody [24]) 0).toNat = (Target.bay 23).address)
      ∧ (∀ body ∈ [FrameBody.grant 14, .lock, .release, .park, .cap 80, .setpoint .formGrid, .show .waiting],
          let s := retried body .charging 0 .named
          s.Quiet ∧ s.link.bus = .awaiting (attemptOf ⟨some (.bay 23), body⟩ true)
            ∧ s.queued body.laneKind (.bay 23) = false)
      ∧ (let s := { retried .lock .charging 0 .named with link.ordinary := [⟨⟨some (.bay 23), .release⟩, false, false⟩] }
         s.Quiet ∧ s.queued .latch (.bay 23) = true)
      ∧ (∀ body ∈ [FrameBody.who, .name 9],
          let s := retried body .vacant 0 .named
          s.Quiet ∧ s.link.bus = .awaiting (attemptOf ⟨some (.bay 23), body⟩ true) ∧ (s.recOf (.bay 23)).link ≠ .unnamed) := by
  refine ⟨⟨quiet_of _ rfl, rfl, by decide +kernel⟩, ?_, ?_, ?_, ⟨quiet_of _ rfl, by decide +kernel⟩, ?_⟩
  · have h : ∀ st ∈ [BayState.vacant, .charging, .ending], ∀ missed ∈ [1, 2],
        ((retried .poll st missed .named).recOf (.bay 23)).missed = missed
          ∧ ((retried .poll st missed .named).recOf (.bay 23)).link = .named
          ∧ ((retried .poll st missed .named).bayOf 23).state = st := by decide +kernel
    exact fun st hst missed hm => ⟨quiet_of _ rfl, rfl, h st hst missed hm⟩
  · have h : ∀ body ∈ [FrameBody.who, .name 9], ((retried body .seeking 0 .unnamed).recOf (.bay 23)).link = .unnamed
        ∧ ((retried body .seeking 0 .unnamed).recOf (.bay 23)).fit = .isIn := by
      decide +kernel
    exact fun body hb => ⟨quiet_of _ rfl, rfl, rfl, (h body hb).1, (h body hb).2, by decide +kernel⟩
  · have h : ∀ body ∈ [FrameBody.grant 14, .lock, .release, .park, .cap 80, .setpoint .formGrid, .show .waiting],
        (retried body .charging 0 .named).queued body.laneKind (.bay 23) = false := by decide +kernel
    exact fun body hb => ⟨quiet_of _ rfl, rfl, h body hb⟩
  · have h : ∀ body ∈ [FrameBody.who, .name 9], ((retried body .vacant 0 .named).recOf (.bay 23)).link ≠ .unnamed := by
      decide +kernel
    exact fun body hb => ⟨quiet_of _ rfl, rfl, h body hb⟩

def storeWho : Frame := ⟨some .store, .who⟩

/-- A WHO answer of class STORE, and one of class BAY, to an UNNAMED record: new, with the same serial, with another. -/
theorem witness_WhoAnswersIdentifyTheModule :
    let good := answerTo storeWho 0 [0, 0, 0, 0, 0, 0, 0, 9, 3, 100, 0]
    let wrong := answerTo storeWho 0 [0, 0, 0, 0, 0, 0, 0, 9, 1, 100, 0]
    let s := waiting running storeWho false
    let known := fun (n : BitVec 64) => waiting (running.setRec .store { running.recOf .store with serial := some n }) storeWho false
    let apart := waiting (running.setRec .store (ModuleRec.reset .mismatch)) storeWho false
    s.Quiet ∧ apart.Quiet ∧ s.site.run = .run ∧ s.link.bus = .awaiting (attemptOf storeWho false) ∧ (known 9).Quiet
      ∧ (known 8).Quiet
      ∧ answerOk (attemptOf storeWho false) (s.recOf .store) good = true
      ∧ answerOk (attemptOf storeWho false) (s.recOf .store) wrong = true ∧ (s.recOf .store).link = .unnamed
      ∧ (s.recOf .store).fit = .isIn
      ∧ (whoReport good.payload).cls = some Target.store.cls ∧ (s.recOf .store).serial = none
      ∧ ((known 9).recOf .store).serial = some (whoReport good.payload).serial
      ∧ ((known 8).recOf .store).serial = some 8 ∧ (8 : BitVec 64) ≠ (whoReport good.payload).serial
      ∧ (whoReport wrong.payload).cls ≠ some Target.store.cls
      ∧ (apart.recOf .store).fit ≠ .isIn
      ∧ answerOk (attemptOf storeWho false) (apart.recOf .store) good = true :=
  ⟨quiet_of _ rfl, quiet_of _ rfl, rfl, rfl, quiet_of _ rfl, quiet_of _ rfl, by decide +kernel⟩

/-- A REPLACED module at a bay with a session, in an eligible state and in ENDING. -/
theorem witness_WhoAnswersIdentifyTheModule_replaced :
    ∀ st ∈ [BayState.awaitPower, .ending],
      let f : Frame := ⟨some (.bay 23), .who⟩
      let a := answerTo f 0 [0, 0, 0, 0, 0, 0, 0, 9, 1, 0, 110]
      let s := waiting (seat ((put running 23 st 0).setRec (.bay 23)
        { ModuleRec.reset .isIn with serial := some 8, cls := some .bay, rating := 110 }) 23 9) f false
      s.Quiet ∧ s.site.run = .run ∧ s.link.bus = .awaiting (attemptOf f false)
        ∧ answerOk (attemptOf f false) (s.recOf (.bay 23)) a = true ∧ (s.recOf (.bay 23)).link = .unnamed
        ∧ (s.recOf (.bay 23)).fit = .isIn
        ∧ (whoReport a.payload).cls = some ModuleClass.bay ∧ (s.recOf (.bay 23)).serial = some 8
        ∧ (8 : BitVec 64) ≠ (whoReport a.payload).serial ∧ (s.bayOf 23).state = st ∧ s.openSession 23 ≠ none := by
  intro st hst
  refine ⟨quiet_of _ rfl, rfl, rfl, ?_⟩
  revert st
  decide +kernel

/-- NAME on the line for a target whose record has an enrolment kind and a fit; ENROL_BAY and RETURN_BAY are held for it. -/
def naming (s : State) (t : Target) (kind : Option EnrolKind) (fit : Fit) : State :=
  let address : Word := BitVec.ofNat 16 t.address
  { waiting (s.setRec t { ModuleRec.reset fit with serial := some 9, cls := some t.cls, rating := 100, enrol := kind })
      ⟨some t, .name 3⟩ false with
    xchg.holder := (Vector.replicate 8 none).set 0 (some ⟨46, 8, Kind.enrolBay.code, padBody [address]⟩)
      |>.set 7 (some ⟨47, 9, Kind.returnBay.code, padBody [address]⟩) }

def enrolKinds : List (Option EnrolKind) := [none, some .first, some .same, some .replaced]

/-- Every kind of enrolment at each class of address, at a bay in each state that an enrolment moves and in one that it leaves;
and a MISMATCH record. -/
def namings : List (State × Target × Fit) :=
  enrolKinds.flatMap (fun kind =>
    [(naming running (.string 5) kind .isIn, .string 5, .isIn), (naming running .store kind .isIn, .store, .isIn)]
      ++ [BayState.seeking, .silent, .ending, .charging].map (fun st =>
        (naming (put running 23 st 0) (.bay 23) kind .isIn, .bay 23, .isIn)))
    ++ [(naming running .store none .mismatch, .store, .mismatch)]

theorem witness_NameAcknowledgementsEnrol : ∀ c ∈ namings,
    c.1.Quiet ∧ c.1.site.run = .run ∧ c.1.link.bus = .awaiting (attemptOf ⟨some c.2.1, .name 3⟩ false)
      ∧ (attemptOf ⟨some c.2.1, .name 3⟩ false).stale = false
      ∧ answerOk (attemptOf ⟨some c.2.1, .name 3⟩ false) (c.1.recOf c.2.1) (answerTo ⟨some c.2.1, .name 3⟩ 3 []) = true
      ∧ (c.1.recOf c.2.1).link = .unnamed ∧ (c.1.recOf c.2.1).fit = c.2.2
      ∧ (bodyWord (padBody [BitVec.ofNat 16 c.2.1.address]) 0).toNat = c.2.1.address := by
  have h : ∀ c ∈ namings, ((!c.1.inReset && decide (c.1.roundsAsked = 0) && decide (c.1.pageAsks = 0)
        && (c.1.price.active.isSome || c.1.price.queue.isEmpty)) = true)
      ∧ c.1.site.run = .run ∧ c.1.link.bus = .awaiting (attemptOf ⟨some c.2.1, .name 3⟩ false)
      ∧ (attemptOf ⟨some c.2.1, .name 3⟩ false).stale = false
      ∧ answerOk (attemptOf ⟨some c.2.1, .name 3⟩ false) (c.1.recOf c.2.1) (answerTo ⟨some c.2.1, .name 3⟩ 3 []) = true
      ∧ (c.1.recOf c.2.1).link = .unnamed ∧ (c.1.recOf c.2.1).fit = c.2.2
      ∧ (bodyWord (padBody [BitVec.ofNat 16 c.2.1.address]) 0).toNat = c.2.1.address := by decide +kernel
  exact fun c hc => ⟨quiet_of _ (h c hc).1, (h c hc).2⟩

/-- The store converter has been polled: its answer carries a state of charge, a fault code and the grid-forming flag. -/
def polledStore (f : StoreUnit → StoreUnit) (p : Setpoint) : State :=
  let s := awaitingStore .poll false
  { s with store := f s.store, allot.setpoint := p }

def storeAnswer (soc : Nat) (fault forming : Byte) : AnswerFrame :=
  answerTo storePoll 7 [1, BitVec.ofNat 8 (soc / 256), BitVec.ofNat 8 soc, 0, 0, 0, 0, fault, forming]

/-- The condition and setpoint before, the reserve mark at its two bounds, and the answer. -/
def storePolls : List (State × AnswerFrame) :=
  let up (c : Condition) (reserve absent : Bool) (u : StoreUnit) : StoreUnit :=
    { u with link := .up, rating := 100, condition := c, reserve := reserve, gridAbsent := absent }
  [(polledStore (up .ready false false) (.watts 700), storeAnswer 201 0 0),
    (polledStore (up .ready false false) (.watts 700), storeAnswer 0 0 0),
    (polledStore (up .reserve true false) (.watts 0), storeAnswer 1000 0 0),
    (polledStore (up .ready false false) (.watts 700), storeAnswer 500 3 0),
    (polledStore (up .backup false true) .formGrid, storeAnswer 500 0 0),
    (polledStore (up .ready false false) (.watts 700), storeAnswer 500 0 1),
    (polledStore (up .ready false true) (.watts 700), storeAnswer 500 0 0),
    (polledStore (up .backup false false) .formGrid, storeAnswer 500 0 1)]

def polledString : State := waiting (nameTarget running (.string 5)) ⟨some (.string 5), .poll⟩ false

theorem witness_ConverterReportsAreStored :
    GoodPoll polledString (attemptOf ⟨some (.string 5), .poll⟩ false) (.string 5)
        (answerTo ⟨some (.string 5), .poll⟩ 7 [1, 0, 0, 0x17, 0x70, 0])
      ∧ (∀ c ∈ storePolls, GoodPoll c.1 (attemptOf storePoll false) .store c.2 ∧ c.1.queued .setpoint .store = false) :=
  ⟨goodPoll_of (by decide +kernel), goodPolls storePolls (·.1) (·.2) _ (by decide +kernel)⟩

/-- The store's record in a link state, with missed polls, a last POLL and a last WHO. -/
def cycled (link : LinkState) (missed : Nat) (last : Option Nat) : State :=
  { running.setRec .store { namedRec .store with link := link, missed := missed, lastPoll := last, lastWho := last } with
    link.cycleStart := some 99 }

theorem witness_CyclesPollTheNamedRecords :
    (halted.Quiet ∧ halted.site.run = .halted)
      ∧ (let s := { running with link.ordinary := [⟨storePoll, false, true⟩] }
         s.Quiet ∧ s.cycleDone = false)
      ∧ (let s := { running with link.cycleStart := some 100 }
         s.Quiet ∧ s.link.cycleStart = some 100 ∧ s.elapsed < 100 + 1)
      ∧ (∀ c ∈ [(LinkState.named, 0, none), (.parked, 0, none), (.parked, 0, some 70), (.parked, 0, some 71), (.unnamed, 2, none),
            (.unnamed, 3, none), (.unnamed, 3, some 70), (.unnamed, 3, some 71)],
          let s := cycled c.1 c.2.1 c.2.2
          s.Quiet ∧ s.site.run = .run ∧ s.link.cycleStart = some 99 ∧ s.elapsed = 100 ∧ s.cycleDone = true
            ∧ (s.recOf .store).fit = .isIn ∧ (s.recOf .store).link = c.1 ∧ (s.recOf .store).missed = c.2.1
            ∧ (s.recOf .store).lastPoll = c.2.2 ∧ (s.recOf .store).lastWho = c.2.2 ∧ s.enrolQueued .store = false)
      ∧ (let s := running.setRec .store (ModuleRec.reset .mismatch)
         s.Quiet ∧ s.cycleDone = true ∧ (s.recOf .store).fit ≠ .isIn) := by
  refine ⟨⟨halted_quiet, rfl⟩, ⟨quiet_of _ rfl, by decide +kernel⟩, ⟨quiet_of _ rfl, rfl, by decide +kernel⟩, ?_,
    ⟨quiet_of _ rfl, by decide +kernel⟩⟩
  have h : ∀ c ∈ [(LinkState.named, 0, none), (.parked, 0, none), (.parked, 0, some 70), (.parked, 0, some 71),
        (.unnamed, 2, none), (.unnamed, 3, none), (.unnamed, 3, some 70), (.unnamed, 3, some 71)],
      (cycled c.1 c.2.1 c.2.2).cycleDone = true ∧ ((cycled c.1 c.2.1 c.2.2).recOf .store).fit = .isIn
        ∧ ((cycled c.1 c.2.1 c.2.2).recOf .store).link = c.1 ∧ ((cycled c.1 c.2.1 c.2.2).recOf .store).missed = c.2.1
        ∧ ((cycled c.1 c.2.1 c.2.2).recOf .store).lastPoll = c.2.2
        ∧ ((cycled c.1 c.2.1 c.2.2).recOf .store).lastWho = c.2.2 ∧ (cycled c.1 c.2.1 c.2.2).enrolQueued .store = false := by
    decide +kernel
  exact fun c hc => ⟨quiet_of _ rfl, rfl, rfl, rfl, h c hc⟩

/-- Inside a sample after `n` of its 24 bytes. -/
def insideSample (m : SampleFrame) (n : Nat) : State :=
  { running with meter.receiver := .inside ((sampleData m ++ [m.check]).take n) }

theorem witness_SamplesAreCheckedInOrder :
    (running.Quiet ∧ running.meter.receiver = .waiting ∧ (0x59 : Byte) ≠ 0x5A)
      ∧ (∃ got, (insideSample (sampleOf 0 0 1) 22).Quiet ∧ (insideSample (sampleOf 0 0 1) 22).meter.receiver = .inside got
          ∧ got.length = 22)
      ∧ (∃ got, (insideSample (sampleOf 0 0 1) 23).meter.receiver = .inside got
          ∧ got ++ [(sampleOf 0 0 1).check] = sampleData (sampleOf 0 0 1) ++ [(sampleOf 0 0 1).check])
      ∧ ((sampleOf 0 0 2).present ≠ 0 ∧ (sampleOf 0 0 2).present ≠ 1)
      ∧ ({ sampleOf 0 0 1 with check := 0 } : SampleFrame).check ≠ xorBytes (sampleData { sampleOf 0 0 1 with check := 0 })
      ∧ ({ running with meter.lastSeq := some 5 } : State).meter.lastSeq = some (sampleOf 0 0 1).seq
      ∧ ((sampleOf 0 0 0).present = 0 ∧ (sampleOf 0 0 1).present = 1
        ∧ (sampleOf 0 0 0).check = xorBytes (sampleData (sampleOf 0 0 0))
        ∧ (sampleOf 0 0 1).check = xorBytes (sampleData (sampleOf 0 0 1))
        ∧ running.meter.lastSeq ≠ some (sampleOf 0 0 1).seq
        ∧ running.meter.receiver.spells (sampleLine (sampleOf 0 0 1)) = some (sampleOf 0 0 1)) :=
  ⟨⟨running_quiet, rfl, by decide⟩, ⟨_, quiet_of _ rfl, rfl, by decide +kernel⟩, ⟨_, rfl, by decide +kernel⟩,
    by decide +kernel⟩



def lostGrid : State := { halted with grid := ⟨.lost, .stopped⟩ }

/-- A feeder of 0 W, one of 3 W, and the grid LOST. -/
theorem witness_SharesSplitTheFeeder :
    lostGrid.grantsMatch ∧ lostGrid.inReset = false ∧ (∀ b, lostGrid.grantOf b = 0)
      ∧ (after (.sampleReceived (sampleLine (sampleOf 0 0 0))) lostGrid).grid.state = .lost
      ∧ ∀ m ∈ [sampleOf 0 0 0, sampleOf 0 3 0],
        lostGrid.meter.receiver.spells (sampleLine m) = some m ∧ lostGrid.sampleGood m = true := by
  refine ⟨?_, rfl, by decide +kernel, by decide +kernel, by decide +kernel⟩
  unfold State.grantsMatch
  decide +kernel

theorem witness_AcceptedSampleIsRecorded :
    (running.inReset = false ∧ running.meter.receiver.spells (sampleLine (sampleOf 0 0 1)) = some (sampleOf 0 0 1)
      ∧ running.sampleGood (sampleOf 0 0 1) = true ∧ (sampleOf 0 0 1).feeder.toNat = 0 ∧ running.meter.state = .blind
      ∧ running.meter.lastSeq = none)
      ∧ ({ running with meter.lastSeq := some 4 } : State).sampleGood (sampleOf 0 22000 0) = true
      ∧ (4 : Word) = (sampleOf 0 22000 0).seq - 1
      ∧ (let s := { running with site.settings.intervalTarget := 1, meter.used := 1 }
         s.sampleGood (sampleOf 3600 0 1) = true ∧ s.meter.exceeded = false) := by decide +kernel

/-- Hold states with a line limit of 0 W and a count, and states of the grid watch. -/
def holdsAndGrids : List (HoldController × GridWatch) :=
  [(⟨true, none, .met, none, 3, true⟩, ⟨.present, .stopped⟩), (⟨true, none, .requested, some 160, 1, false⟩, ⟨.lost, .stopped⟩),
    (⟨true, none, .missed, none, 2, false⟩, ⟨.returning, .runOut⟩),
    (⟨false, some ⟨5000, 200, some 3⟩, .requested, some 160, 2, false⟩, ⟨.returning, .running 150⟩)]

/-- Each of them with a sample above the limit while the grid is absent, and one within it while the grid is present. -/
theorem witness_AcceptedSampleIsRecorded_hold : ∀ c ∈ holdsAndGrids, ∀ m ∈ [sampleOf 5001 0 0, sampleOf 0 0 1],
    let s := { running with hold := c.1, grid := c.2 }
    s.inReset = false ∧ s.meter.receiver.spells (sampleLine m) = some m ∧ s.sampleGood m = true
      ∧ s.effectiveLimit ≠ none := by decide +kernel

/-- A session that closes with two segments and an idle clock at its grace. -/
def closing (voucher : Option (BitVec 64)) (total : Nat) : Session :=
  ⟨9, 23, 0, none, .voucher, none, voucher, none, some 4, total, 0, 0, total, 0, 0,
    [⟨2, 7, 32, 18, 25, 0, 0, total⟩], ⟨900, none, some ⟨2, 7, 10, 15⟩⟩, some .stopButton, false, none⟩

/-- The final answer in ENDING, of a session without and with a voucher, without and with energy; STOP_SESSION is held for
the bay. -/
def closePolls : List (State × AnswerFrame) :=
  [(none, 0), (none, 1), (some 5, 0), (some 5, 1)].map (fun v =>
    ({ polledSession .ending 0 (some 4) (fun z => { closing v.1 v.2 with isOpen := z.isOpen }) with
      sess.vouchers := [⟨5, .amount, 150, 2000, true⟩],
      xchg.holder := Vector.ofFn (fun _ => some ⟨47, 9, Kind.stopSession.code, padBody [24]⟩) }, bayAnswer 1 0 4 0 0 0))

theorem witness_ClosesPriceTheSession :
    (([⟨5, .amount, 150, 2000, true⟩, ⟨6, .percent, 100, 2000, true⟩] : List Voucher).find? (fun w => decide (w.code = 5))
        = some ⟨5, .amount, 150, 2000, true⟩
      ∧ (closing (some 5) 1).voucher = some 5 ∧ (closing none 1).voucher = none
      ∧ (closedRecord 1000 100 [] (closing none 0)).isVoid = true
      ∧ (closedRecord 1000 100 [] (closing none 1)).isVoid = false)
      ∧ (∀ c ∈ closePolls,
          GoodPoll c.1 (attemptOf ⟨some (.bay 23), .poll⟩ false) (.bay 23) c.2 ∧ (bayReport c.2.payload).fault = 0
            ∧ (c.1.bayOf 23).state = .ending ∧ c.1.openSession 23 ≠ none
            ∧ (c.1.recOf (.bay 23)).energy = some (bayReport c.2.payload).energy ∧ c.1.price.receipts.valid = false
            ∧ (bodyWord (padBody [24]) 0).toNat = (23 : BayIx).val + 1) :=
  ⟨by decide +kernel, goodPolls closePolls (·.1) (·.2) _ (by decide +kernel)⟩

def billOfLines (n : Nat) : Bill := ⟨List.replicate n ⟨.energy, 2, 7, 4, 10⟩, 0, 0, 0⟩

/-- A receipt block write is in progress; an UNBILLED record has a number of lines; the offer lists hold copies; `number` is the
next receipt number and `write` the write index. -/
def composing (lines number : Nat) (write : Word) (short long : List OfferCopy) : State :=
  { writingBlock .receipt with
    price.receipts := ⟨some number, 0, false, some 64⟩,
    sess.table := [{ closing none 1 with isOpen := false, bill := some (billOfLines lines) }],
    rcpt.write := write, rcpt.short.copies := short, rcpt.long.copies := long }

/-- No slip for four lines; no room; and a placement in a short slip, in a long one for want of a short one, in a long one for
four lines, and with the last number of the block. -/
theorem witness_ReceiptsAreComposedAndPlaced :
    (∀ s ∈ [composing 4 64 0 [⟨3, false⟩] [], composing 3 64 128 [⟨3, false⟩] [], composing 3 64 127 [⟨127, false⟩] [],
        composing 3 64 0 [] [⟨159, false⟩], composing 4 64 0 [⟨3, false⟩] [⟨128, false⟩], composing 0 127 0 [⟨0, false⟩] []],
      s.Quiet ∧ s.price.active = some ⟨.block .receipt 64, ⟨[], 0, false, 0⟩⟩ ∧ s.price.queue = []
        ∧ s.price.receipts.asked = some 64 ∧ ((s.oldestUnbilled.map (·.number)) = some 9)
        ∧ (∀ y ∈ s.sess.table, y.isOpen = false → y.number = 9)
        ∧ (∀ l : Bool, (s.offers l).copies.length ≤ 1))
      ∧ (composing 3 64 128 [⟨3, false⟩] []).rcpt.write - (composing 3 64 128 [⟨3, false⟩] []).rcpt.readMark = 128
      ∧ (billOfLines 3).lines.length ≤ 3 ∧ 3 < (billOfLines 4).lines.length ∧ (billOfLines 20).lines.length ≤ 20
      ∧ 64 + 1 ≠ 64 + 64 ∧ 127 + 1 = 64 + 64 := by
  refine ⟨?_, by decide +kernel⟩
  have h : ∀ s ∈ [composing 4 64 0 [⟨3, false⟩] [], composing 3 64 128 [⟨3, false⟩] [], composing 3 64 127 [⟨127, false⟩] [],
        composing 3 64 0 [] [⟨159, false⟩], composing 4 64 0 [⟨3, false⟩] [⟨128, false⟩], composing 0 127 0 [⟨0, false⟩] []],
      ((!s.inReset && decide (s.roundsAsked = 0) && decide (s.pageAsks = 0)
        && (s.price.active.isSome || s.price.queue.isEmpty)) = true)
      ∧ s.price.active = some ⟨.block .receipt 64, ⟨[], 0, false, 0⟩⟩ ∧ s.price.queue = []
        ∧ s.price.receipts.asked = some 64 ∧ ((s.oldestUnbilled.map (·.number)) = some 9)
        ∧ (∀ y ∈ s.sess.table, y.isOpen = false → y.number = 9)
        ∧ (∀ l : Bool, (s.offers l).copies.length ≤ 1) := by decide +kernel
  exact fun s hs => ⟨quiet_of s (h s hs).1, (h s hs).2⟩

theorem witness_NormalRoundsShareTheBudget :
    ∀ present ∈ [(0 : Byte), 1], twoBays.Quiet ∧ twoBays.site.run = .run
      ∧ twoBays.meter.receiver.spells (sampleLine (sampleOf 0 1400 present)) = some (sampleOf 0 1400 present)
      ∧ twoBays.sampleGood (sampleOf 0 1400 present) = true := by
  intro present h
  refine ⟨quiet_of _ rfl, rfl, ?_⟩
  revert present
  decide +kernel

/-- The two bays with NAMED modules, under an import cap. The shop takes 1000 W. -/
def roundUnder (cap : Nat) : State :=
  { nameTarget (nameTarget twoBays (.bay 0)) (.bay 1) with
    site.settings := { SiteSettings.reset with importCap := cap, feederLimit := 44000, margin := 0 } }

/-- Wait list, mark, and the state, grant and last issued grant of bays 1 and 2. -/
def roundView (t : State) : List BayIx × BayIx × List (BayState × Nat × Nat) :=
  (t.allot.waitList, t.allot.mark, [0, 1].map (fun b => ((t.bayOf b).state, t.grantOf b, (t.recOf (.bay b)).issuedGrant)))

/-- A budget of 1399 W holds bay 2 back; one of 1400 W keeps it, one of 3100 W admits bay 1 beside it and leaves an odd
quantum to bay 2, which is first in grant order; a rise is cut to 3600 W; a lost grid takes bay 2 to the wait list. -/
theorem witness_NormalRoundsShareTheBudget_moves :
    ∀ c ∈ ([(2399, 1, [0, 1], 0, [(.awaitPower, 0, 0), (.awaitPower, 0, 0)]),
        (2400, 1, [0], 1, [(.awaitPower, 0, 0), (.charging, 1400, 14)]),
        (4100, 1, [], 1, [(.charging, 1500, 15), (.charging, 1600, 16)]),
        (44000, 1, [], 1, [(.charging, 3600, 36), (.charging, 5000, 50)]),
        (44000, 0, [0, 1], 0, [(.awaitPower, 0, 0), (.awaitPower, 0, 0)])] :
        List (Nat × Byte × List BayIx × BayIx × List (BayState × Nat × Nat))),
      roundView (after (.sampleReceived (sampleLine (sampleOf 0 0 c.2.1))) (roundUnder c.1)) = c.2.2 := by decide +kernel

/-- The two bays with a store converter and string 6, at 6200 W under an import cap; a ceiling of 5000 W or none. -/
def batteryUnder (cap : Nat) (topUp : Bool) (ceiling : Option Nat) : State :=
  let s := nameTarget (nameTarget (roundUnder cap) .store) (.string 5)
  { s with
    store := { s.store with
      link := .up, rating := 100, soc := some 500, condition := .ready,
      strings := s.store.strings.set 5 ⟨.up, 80, 0, some 6200⟩ },
    allot.ceilings := s.allot.ceilings.set 5 ceiling,
    site.settings := { s.site.settings with dischargeLimit := 5000, chargeLimit := 5000, topUpTarget := 800 },
    price.bands := [⟨0, 40, 20, 30, 5, topUp⟩] }

/-- A sample with a shop load and a canopy. -/
def loads (shop canopy : DWord) : SampleFrame :=
  let m : SampleFrame := ⟨5, 0, 1, shop, 0, canopy, 0, 0⟩
  { m with check := xorBytes (sampleData m) }

theorem witness_NormalRoundsSetTheBattery :
    ∀ c ∈ [(2400, true, none, loads 4000 0, Setpoint.watts 5000, Stance.supporting, none),
        (2400, false, none, loads 0 30000, .watts (-5000), .soaking, some 0),
        (44000, false, some 10, loads 0 6000, .watts 0, .idle, some 10),
        (44000, true, none, loads 0 6000, .watts (-5000), .topping, none)],
      (batteryUnder c.1 c.2.1 c.2.2.1).Quiet ∧ (batteryUnder c.1 c.2.1 c.2.2.1).site.run = .run
        ∧ (batteryUnder c.1 c.2.1 c.2.2.1).meter.receiver.spells (sampleLine c.2.2.2.1) = some c.2.2.2.1
        ∧ (batteryUnder c.1 c.2.1 c.2.2.1).sampleGood c.2.2.2.1 = true
        ∧ (let t := after (.sampleReceived (sampleLine c.2.2.2.1)) (batteryUnder c.1 c.2.1 c.2.2.1)
           (t.allot.setpoint, t.allot.stance, t.allot.ceilings[5]) = c.2.2.2.2) := by
  intro c h
  refine ⟨quiet_of _ rfl, rfl, ?_⟩
  revert c
  decide +kernel

/-- No target; a target reached; a target not reached, in the first and in the last second of the interval. -/
theorem witness_TheImportCapIsTheLowestLimit :
    running.site.settings.intervalTarget = 0
      ∧ (let s := { running with site.settings.intervalTarget := 7, meter.used := 7 }
         s.site.settings.intervalTarget ≠ 0 ∧ s.site.settings.intervalTarget ≤ s.meter.used)
      ∧ (∀ clock ∈ [900, 1799],
          let s := { running with site.settings.intervalTarget := 7, meter.intervalStart := 900, xchg.clock := clock }
          s.meter.used < s.site.settings.intervalTarget ∧ s.meter.intervalStart ≤ s.xchg.clock
            ∧ s.xchg.clock < s.meter.intervalStart + 900)
      ∧ (let s := { running with site.settings.holdLineLimit := 9, hold.lineActive := true, hold.state := .requested }
         s.hold.state ≠ .clear ∧ s.effectiveLimit = some 9) := by decide +kernel

/-- The last sample 2 s and 3 s ago. -/
def watched (began : Nat) (r : RunState) : State :=
  { twoBays with meter.state := .live, meter.watch := some began, site.run := r }

theorem witness_TheLostMeterLowersTheGrants :
    (running.Quiet ∧ running.meter.state = .blind ∧ running.meter.watch = none ∧ running.allot.blindTimer = false)
      ∧ ((watched 98 .run).Quiet ∧ (watched 98 .run).elapsed < 98 + 3)
      ∧ (∀ r, (watched 97 r).Quiet ∧ (watched 97 r).meter.state = .live ∧ (watched 97 r).meter.watch = some 97
          ∧ 97 + 3 ≤ (watched 97 r).elapsed ∧ (watched 97 r).site.run = r)
      ∧ (let s := { twoBays with allot.blindTimer := true }
         s.Quiet ∧ s.allot.blindTimer = true ∧ s.meter.state = .blind ∧ s.site.run = .run) :=
  ⟨⟨running_quiet, rfl, rfl, rfl⟩, ⟨quiet_of _ rfl, by decide +kernel⟩,
    fun _ => ⟨quiet_of _ rfl, rfl, rfl, by show 97 + 3 ≤ 100; decide, rfl⟩, ⟨quiet_of _ rfl, rfl, rfl, rfl⟩⟩

/-- With no request source: a line that becomes active, and one that becomes inactive in MET, REQUESTED and MISSED. With one,
whose limit lies above, and at, the line's: the line becomes active in MET, REQUESTED and MISSED, and inactive. -/
theorem witness_TheHoldLineSetsTheHold :
    (running.Quiet ∧ running.hold.request = none ∧ running.hold.lineActive = false ∧ running.hold.state = .clear
      ∧ (true != running.site.straps.holdpol) = true)
      ∧ (∀ st ∈ [HoldState.met, .requested, .missed],
          let s := { running with hold.lineActive := true, hold.state := st }
          s.Quiet ∧ s.hold.request = none ∧ (false != s.site.straps.holdpol) = false ∧ s.hold.lineActive = true
            ∧ s.hold.state = st)
      ∧ (∀ limit ∈ [8, 9], ∀ st ∈ [HoldState.met, .requested, .missed], ∀ line : Bool,
          let s := { running with
            site.settings.holdLineLimit := 8, hold := ⟨line, some ⟨limit, 160, none⟩, st, none, 3, decide (st = HoldState.met)⟩ }
          s.Quiet ∧ s.hold.request = some ⟨limit, 160, none⟩ ∧ s.hold.state = st ∧ s.hold.lineActive = line
            ∧ s.site.settings.holdLineLimit = 8)
      ∧ ((false != running.site.straps.holdpol) = running.hold.lineActive) :=
  ⟨⟨running_quiet, rfl, rfl, rfl, by decide⟩, fun _ _ => ⟨quiet_of _ rfl, rfl, rfl, rfl, rfl⟩,
    fun _ _ _ _ _ => ⟨quiet_of _ rfl, rfl, rfl, rfl, rfl⟩, rfl⟩

theorem witness_TheDeadlineEscalates :
    (running.Quiet ∧ running.hold.state ≠ .requested ∧ running.hold.deadline = none)
      ∧ (let s := { twoBays with hold := ⟨true, none, .requested, some 101, 0, false⟩ }
         s.Quiet ∧ s.hold.deadline = some 101 ∧ s.elapsed < 101)
      ∧ (let s := { twoBays with hold := ⟨true, none, .requested, some 100, 0, false⟩ }
         s.Quiet ∧ s.hold.state = .requested ∧ s.hold.deadline = some 100 ∧ 100 ≤ s.elapsed
          ∧ (s.bayOf 1).state.powered = true ∧ (s.bayOf 0).state.powered = false) :=
  ⟨⟨running_quiet, by decide, rfl⟩, ⟨quiet_of _ rfl, by decide +kernel⟩, ⟨quiet_of _ rfl, by decide +kernel⟩⟩

/-- A request held at its place, with the line active and not, when the deadline passes and when the source ends. -/
theorem witness_TheDeadlineEscalates_held : ∀ line : Bool, ∀ st ∈ [HoldState.requested, .missed],
    let h : Held := ⟨0, 9, Kind.gridHold.code, padBody []⟩
    let r : HoldRequest := ⟨9, 100, some 0⟩
    let s := { nameTarget twoBays (.bay 1) with
      hold := ⟨line, some r, st, some 100, 1, false⟩, xchg.holder := running.xchg.holder.set 0 (some h), xchg.mem := takenSlot }
    s.Quiet ∧ s.site.run = .run ∧ s.hold.state = st ∧ s.hold.deadline = some 100 ∧ 100 ≤ s.elapsed
      ∧ s.hold.request = some r ∧ r.endTime ≤ s.elapsed ∧ r.asker = some 0 ∧ s.xchg.holder[0] = some h
      ∧ s.hold.lineActive = line ∧ s.xchg.mem.word (slotBase 0) = slotTaken ∧ s.xchg.mem.word (slotBase 0 + 3) = 9
      ∧ (s.bayOf 1).state.powered = true ∧ (s.recOf (.bay 1)).link = .named ∧ s.queued .park (.bay 1) = false := by
  intro line st h
  refine ⟨quiet_of _ rfl, rfl, ?_⟩
  revert line st
  decide +kernel

/-- A request source of holder place 3, with its end time. -/
def askedHold (line : Bool) (ends : Nat) : State :=
  { crowded with hold := ⟨line, some ⟨9, ends, some 3⟩, .met, none, 3, true⟩ }

theorem witness_TheRequestSourceEnds :
    (running.Quiet ∧ running.hold.request = none)
      ∧ ((askedHold false 101).Quiet ∧ (askedHold false 101).hold.request = some ⟨9, 101, some 3⟩
        ∧ (askedHold false 101).elapsed < 101)
      ∧ (∀ line, (askedHold line 100).Quiet ∧ (askedHold line 100).hold.request = some ⟨9, 100, some 3⟩
        ∧ 100 ≤ (askedHold line 100).elapsed ∧ (askedHold line 100).hold.lineActive = line) :=
  ⟨⟨running_quiet, rfl⟩, ⟨quiet_of _ rfl, rfl, by decide +kernel⟩,
    fun _ => ⟨quiet_of _ rfl, rfl, by show 100 ≤ 100; decide, rfl⟩⟩

theorem witness_TheReturnTimerRunsOut :
    (∀ st : MeterState,
      let s := { running with meter.state := st, grid := ⟨.returning, .running 100⟩ }
      s.Quiet ∧ s.grid = ⟨.returning, .running 100⟩ ∧ 100 ≤ s.elapsed ∧ s.meter.state = st)
      ∧ (let s := { running with grid := ⟨.returning, .running 101⟩ }
         s.Quiet ∧ s.grid.timer = .running 101 ∧ s.elapsed < 101)
      ∧ (running.Quiet ∧ running.grid.state ≠ .returning) :=
  ⟨fun _ => ⟨quiet_of _ rfl, rfl, by show 100 ≤ 100; decide, rfl⟩, ⟨quiet_of _ rfl, rfl, by decide +kernel⟩,
    ⟨running_quiet, by decide⟩⟩

/-- The residues at their bounds. -/
theorem witness_TheSplitLosesNoEnergy :
    (431 + 272 + 297 = 1000 ∧ 999 ≤ 999 ∧ 999 + 999 ≤ 1998) ∧ (1000 + 0 + 0 = 1000 ∧ 0 ≤ 999 ∧ 1998 + 0 ≤ 1998) := by decide

/-- R118: at the first start of the day by the local offset, one second before it, and before midnight of clock 0. -/
theorem test_band_of_state :
    let s := fun (clock : Nat) (offset : Int) => ({ running with
      price.bands := [⟨360, 1, 0, 0, 0, false⟩, ⟨1200, 2, 0, 0, 0, false⟩], xchg.clock := clock, xchg.offset := offset } : State)
    (s (86400 + 18000) 3600).bandNumber = 1 ∧ (s (86400 + 17999) 3600).bandNumber = 2 ∧ (s 0 (-1)).bandNumber = 2
      ∧ (s 86399 21601).bandNumber = 1 ∧ ({ running with price.bands := [] } : State).bandNumber = 0 := by decide

/-- At, above and below the first start of the day. -/
theorem witness_TheBandInForceIsTheLastStarted :
    let bands : List Band := [⟨360, 1, 0, 0, 0, false⟩, ⟨1200, 2, 0, 0, 0, false⟩]
    ascending bands = true ∧ bands ≠ []
      ∧ (bandInForce bands 360).map (fun r => decide (r.2.startMinute ≤ 360)) = some true
      ∧ (bandInForce bands 359).map (fun r => decide (359 < r.2.startMinute)) = some true := by decide

end Sys2Proof.Tests
end

section
/-!
PROOF of O47: the shares of an accepted sample, and that a grid LOST leaves no bay a grant.

The shares are set once in the sample, and nothing after them touches the Meter Unit (`Aside`, `Settled`). For the grants: a
sample that finds the grid PRESENT or RETURNING and leaves it LOST takes every powered bay's grant back; a part with the grid
LOST and no powered bay (`State.Dark`) plans no grant in a round, and nothing else in the sample sets one (`SamePower`).
-/
namespace Sys2Proof.Machine

/-! ## The shares (R60) -/

/-- Two floors of a part each, and the rest of 1000: the rest is at least the exact share and less than 2 permille above. -/
theorem rest_of_floors_bounds {sun battery grid whole sunShare batteryShare gridShare : Nat} (pos : whole ≠ 0)
    (parts : sun + battery + grid = whole) (shares : sunShare + batteryShare + gridShare = 1000)
    (sunFloor : sunShare = sun * 1000 / whole) (batteryFloor : batteryShare = battery * 1000 / whole) :
    grid * 1000 ≤ gridShare * whole ∧ gridShare * whole < grid * 1000 + 2 * whole := by
  have sunLow : sunShare * whole ≤ sun * 1000 := sunFloor ▸ Nat.div_mul_le_self _ _
  have batteryLow : batteryShare * whole ≤ battery * 1000 := batteryFloor ▸ Nat.div_mul_le_self _ _
  have sunHigh : sun * 1000 < sunShare * whole + whole := sunFloor ▸ Nat.lt_div_mul_add (Nat.pos_of_ne_zero pos)
  have batteryHigh : battery * 1000 < batteryShare * whole + whole :=
    batteryFloor ▸ Nat.lt_div_mul_add (Nat.pos_of_ne_zero pos)
  have total : sunShare * whole + batteryShare * whole + gridShare * whole = 1000 * whole := by
    rw [← Nat.add_mul, ← Nat.add_mul, shares]
  omega

theorem sharesOf_zero (canopy : Nat) (flow : Int) : sharesOf 0 canopy flow = ⟨0, 0, 1000⟩ := by simp [sharesOf]

/-- The grid share takes the rounding of the other two. -/
theorem sharesOf_grid_bounds (feeder canopy : Nat) (flow : Int) (pos : feeder ≠ 0) :
    let sunPower := min canopy feeder
    let gridPower := feeder - sunPower - min flow.toNat (feeder - sunPower)
    gridPower * 1000 ≤ (sharesOf feeder canopy flow).grid * feeder
      ∧ (sharesOf feeder canopy flow).grid * feeder < gridPower * 1000 + 2 * feeder :=
  rest_of_floors_bounds pos (by omega) (sharesOf_sum feeder canopy flow) rfl rfl

/-! ## The course of an accepted sample (R50, R51) -/

/-- An accepted sample up to the exceedance test: what the Meter Unit does before it tells the other units. -/
def State.meterSample (s : State) (m : SampleFrame) : State :=
  let f := sampleFields m
  (({ (s.keepSample m).meterRestored with meter.shares := sharesOf f.feeder f.canopy f.flow } : State).addImport
    f.gridPower).testExceedance

theorem acceptSample_eq (s : State) (m : SampleFrame) :
    s.acceptSample m = (((s.meterSample m).gridSample (sampleFields m).gridPresent).holdSample
      (sampleFields m).gridPower).askRound := rfl

theorem exec_acceptedSample {m : SampleFrame} {bytes : List MeterByte} {s : State} (live : s.inReset = false)
    (spelt : s.meter.receiver.spells bytes = some m) (good : s.sampleGood m = true) :
    exec (.sampleReceived bytes) s = .next (({ s with meter.receiver := .waiting } : State).acceptSample m).settle := by
  have taken : s.takeSample m = ({ s with meter.receiver := .waiting } : State).acceptSample m := if_pos good
  show Host.Outcome.next (s.live (State.takeBytes bytes)) = _
  rw [live_of_live live, takeBytes_of_spells bytes m s spelt, settle_settleUnits, taken]

theorem testExceedance_shares (s : State) : s.testExceedance.meter.shares = s.meter.shares := by
  unfold State.testExceedance
  dsimp only
  split <;> rfl

theorem acceptSample_shares (s : State) (m : SampleFrame) :
    (s.acceptSample m).meter.shares = sharesOf m.feeder.toNat m.canopy.toNat m.flow.toInt := by
  have later : Aside (s.meterSample m) (((s.meterSample m).gridSample (sampleFields m).gridPresent).holdSample
      (sampleFields m).gridPower) := aside_holdSample (aside_gridSample (Aside.rfl' _) _) _
  rw [acceptSample_eq, askRound_meter, later.meter]
  exact testExceedance_shares _

/-! ## What leaves the grid, the bay states and the grants as they are -/

/-- `t` has the grid watch, the bay states and the grants of `s`. -/
structure SamePower (s t : State) : Prop where
  grid : t.grid = s.grid
  bays : ∀ b, (t.bayOf b).state = (s.bayOf b).state
  grants : ∀ b, t.grantOf b = s.grantOf b

theorem SamePower.rfl' (s : State) : SamePower s s := ⟨rfl, fun _ => rfl, fun _ => rfl⟩

theorem SamePower.trans {s t u : State} (h : SamePower s t) (k : SamePower t u) : SamePower s u where
  grid := k.grid.trans h.grid
  bays b := (k.bays b).trans (h.bays b)
  grants b := (k.grants b).trans (h.grants b)

/-- An update of fields that SamePower does not read. -/
theorem SamePower.update {z s t : State} (h : SamePower z s) (grid : t.grid = s.grid := by rfl)
    (bays : t.sess.bays = s.sess.bays := by rfl) (grants : t.allot.grants = s.allot.grants := by rfl) : SamePower z t where
  grid := grid.trans h.grid
  bays b := (congrArg (fun bays => BayRec.state bays[b]) bays).trans (h.bays b)
  grants b := (congrArg (fun grants : Vector Nat 24 => grants[b]) grants).trans (h.grants b)

theorem samePower_askRound {z s : State} (h : SamePower z s) : SamePower z s.askRound := by
  unfold State.askRound
  split
  · exact h.update
  · exact h

theorem samePower_askPage {z s : State} (h : SamePower z s) : SamePower z s.askPage := h.update

theorem samePower_join {z s : State} (h : SamePower z s) (lane : Lane) (f : Frame) (c : Bool) :
    SamePower z (s.join lane f c) := by
  unfold State.join
  split
  · exact h
  · cases lane with
    | ordinary => exact h.update
    | urgent => dsimp only; split <;> exact h.update

theorem samePower_queueGrant {z s : State} (h : SamePower z s) (b : BayIx) (units : Nat) :
    SamePower z (s.queueGrant b units) := by
  unfold State.queueGrant
  split
  · exact h
  · exact samePower_join h.update _ _ _

theorem samePower_queueCap {z s : State} (h : SamePower z s) (i : StringIx) (units : Nat) :
    SamePower z (s.queueCap i units) := by
  unfold State.queueCap
  split
  · exact h
  · exact samePower_join h.update _ _ _

theorem samePower_queueSetpoint {z s : State} (h : SamePower z s) (v : Setpoint) : SamePower z (s.queueSetpoint v) := by
  unfold State.queueSetpoint
  split
  · exact h
  · exact samePower_join h.update _ _ _

theorem samePower_queueShow {z s : State} (h : SamePower z s) (b : BayIx) (m : Message) :
    SamePower z (s.queueShow b m) := by
  unfold State.queueShow
  split
  · exact samePower_join h _ _ _
  · exact h

theorem samePower_clearDraw {z s : State} (h : SamePower z s) (b : BayIx) : SamePower z (s.clearDraw b) :=
  { h with
    bays := fun c => by
      refine Eq.trans ?_ (h.bays c)
      unfold State.clearDraw
      by_cases e : b = c
      · subst e; rw [bayOf_setBay]
      · rw [bayOf_setBay_ne _ _ e] }

theorem samePower_answerPlace {z s : State} (h : SamePower z s) (p : Fin 8) (r : Reply) :
    SamePower z (s.answerPlace p r) := by
  obtain ⟨x, e, -⟩ := answerPlace_only s p r
  rw [e]
  exact h.update

/-! ### The Store Unit -/

theorem samePower_issueSetpoint {z s : State} (h : SamePower z s) : SamePower z s.issueSetpoint := by
  unfold State.issueSetpoint
  dsimp only
  split
  · exact samePower_queueSetpoint h _
  · exact h

theorem samePower_trimSetpoint {z s : State} (h : SamePower z s) : SamePower z s.trimSetpoint := by
  unfold State.trimSetpoint
  split
  · exact h
  · dsimp only
    split
    · exact h
    · exact samePower_issueSetpoint h.update

theorem samePower_conditionChanged {z s : State} (h : SamePower z s) (old new : Condition) :
    SamePower z (s.conditionChanged old new) := by
  unfold State.conditionChanged State.enterBackup
  split
  · dsimp only
    split
    · exact samePower_queueSetpoint h.update _
    · exact h.update
  split
  · exact h.update
  · exact samePower_trimSetpoint h

theorem samePower_setGridView {z s : State} (h : SamePower z s) (absent : Bool) : SamePower z (s.setGridView absent) := by
  unfold State.setGridView State.deriveCondition
  dsimp only
  split
  · exact h.update
  · exact samePower_conditionChanged h.update _ _

theorem samePower_setHoldView {z s : State} (h : SamePower z s) (missed : Bool) : SamePower z (s.setHoldView missed) := by
  unfold State.setHoldView
  split
  · exact h
  · exact samePower_trimSetpoint h.update

/-! ### The hold controller (R89) -/

theorem samePower_setHold {z s : State} (h : SamePower z s) (new : HoldState) : SamePower z (s.setHold new) := by
  unfold State.setHold
  dsimp only
  split
  · exact h
  · split
    · exact samePower_setHoldView h.update _
    · exact h.update

theorem samePower_answerHold {z s : State} (h : SamePower z s) (o : Result) : SamePower z (s.answerHold o) := by
  unfold State.answerHold
  split
  · exact h
  · split
    · exact h
    · exact samePower_answerPlace h.update _ _

theorem samePower_demand {z s : State} (h : SamePower z s) : SamePower z s.demand := samePower_setHold h.update _

theorem samePower_countGood {z s : State} (h : SamePower z s) : SamePower z s.countGood := by
  unfold State.countGood
  split
  · exact samePower_answerHold (samePower_setHold h.update _) _
  · exact h.update

theorem samePower_holdSample {z s : State} (h : SamePower z s) (power : Int) : SamePower z (s.holdSample power) := by
  unfold State.holdSample
  split
  · exact h
  · split
    · exact h
    · split
      · exact samePower_countGood h
      · exact h.update
    · split
      · exact h
      · exact samePower_demand h
    · split
      · exact samePower_countGood h
      · exact h.update

/-! ### The Meter Unit's own part of a sample -/

theorem samePower_meterRestored {z s : State} (h : SamePower z s) : SamePower z s.meterRestored := by
  unfold State.meterRestored
  split
  · exact h
  · exact h.update

theorem samePower_testExceedance {z s : State} (h : SamePower z s) : SamePower z s.testExceedance := by
  unfold State.testExceedance
  dsimp only
  split
  · exact h.update
  · exact h

theorem samePower_meterSample (s : State) (m : SampleFrame) : SamePower s (s.meterSample m) := by
  have kept : SamePower s (s.keepSample m) := (SamePower.rfl' s).update
  have restored := samePower_meterRestored kept
  exact samePower_testExceedance restored.update

/-! ### What a round records and queues after its plan -/

theorem samePower_chooseStance {z s : State} (h : SamePower z s) (cap grants : Nat) :
    SamePower z (s.chooseStance cap grants) := by
  unfold State.chooseStance
  split <;> exact h.update

theorem samePower_issueGrant {z s : State} (h : SamePower z s) (force : Bool) (b : BayIx) :
    SamePower z (s.issueGrant force b) := by
  unfold State.issueGrant
  dsimp only
  split
  · exact samePower_queueGrant h _ _
  · exact h

theorem samePower_issueGrants {z s : State} (h : SamePower z s) (held l : List BayIx) :
    SamePower z (State.issueGrants held l s) := by
  induction l generalizing s with
  | nil => exact h
  | cons b bs ih => exact ih (samePower_issueGrant h _ b)

theorem samePower_issueCap {z s : State} (h : SamePower z s) (i : StringIx) : SamePower z (s.issueCap i) := by
  unfold State.issueCap
  dsimp only
  split
  · exact samePower_queueCap h _ _
  · exact h

theorem samePower_issueCaps {z s : State} (h : SamePower z s) (l : List StringIx) :
    SamePower z (State.issueCaps l s) := by
  induction l generalizing s with
  | nil => exact h
  | cons i is ih => exact ih (samePower_issueCap h i)

/-- After the rounds, the end of a command changes no grant. -/
theorem samePower_settle_of_rounds (s : State) : SamePower s.runRounds s.settle := by
  unfold State.settle State.settleUnits State.serveStore
  obtain ⟨p, x, written, -⟩ := beginWrites_only s.runRounds.price.queue.length s.runRounds
  rw [written]
  obtain ⟨y, paged, -⟩ := servePage_frame ({ s.runRounds with price := p, xchg := x } : State)
  rw [paged]
  exact (SamePower.rfl' s.runRounds).update

/-! ## The grid LOST, and no bay powered -/

/-- The grid is LOST, no bay is in CHARGING or SATED, and none holds a grant. -/
structure State.Dark (s : State) : Prop where
  lost : s.grid.state = .lost
  unpowered : ∀ b, (s.bayOf b).state.powered = false
  ungranted : ∀ b, s.grantOf b = 0

theorem SamePower.dark {s t : State} (h : SamePower s t) (d : s.Dark) : t.Dark where
  lost := (congrArg GridWatch.state h.grid).trans d.lost
  unpowered b := by rw [h.bays]; exact d.unpowered b
  ungranted b := (h.grants b).trans (d.ungranted b)

/-- Grants recorded anew, all of them 0. -/
theorem State.Dark.regrant {s t : State} (d : s.Dark) (grid : t.grid = s.grid) (bays : t.sess.bays = s.sess.bays)
    (zero : ∀ b, t.grantOf b = 0) : t.Dark where
  lost := (congrArg GridWatch.state grid).trans d.lost
  unpowered b := (congrArg (fun bays => (BayRec.state bays[b]).powered) bays).trans (d.unpowered b)
  ungranted := zero

/-- The match of grants and bay states reads nothing else. -/
theorem SamePower.grantsMatch {s t : State} (h : SamePower s t) (k : s.grantsMatch) : t.grantsMatch := by
  intro b
  rw [h.bays, h.grants]
  exact k b

/-- A state whose grants match and are all 0 has no powered bay. -/
theorem dark_of_grantsMatch {s : State} (lost : s.grid.state = .lost) (k : s.grantsMatch) (zero : ∀ b, s.grantOf b = 0) :
    s.Dark where
  lost := lost
  unpowered b := by
    have granted := k b
    rw [zero b] at granted
    cases powered : (s.bayOf b).state.powered with
    | false => rfl
    | true => rw [powered] at granted; exact absurd granted (by decide)
  ungranted := zero

/-! ### Rounds -/

/-- With no powered bay and the grid LOST, a round holds none back, admits none, and grants nothing (R72, R73). -/
theorem plan_of_dark {s : State} (d : s.Dark) : s.plan.held = [] ∧ s.plan.admitted = [] ∧ s.plan.powered = [] := by
  have unpowered : s.poweredBays = [] := List.filter_eq_nil_iff.2 fun b _ => by rw [d.unpowered b]; decide
  have shut : s.mayAdmit = false := by simp [State.mayAdmit, d.lost]
  have unserved : s.servedBays [] [] = [] := by simp [State.servedBays]
  unfold State.plan
  simp [unpowered, shut, unserved]

theorem grantOf_recordPlan (s : State) (p : Plan) (b : BayIx) : (s.recordPlan p).grantOf b = p.grantOf b := by
  simp [State.recordPlan, State.grantOf]

theorem dark_normalRound {s : State} (d : s.Dark) : s.normalRound.Dark := by
  have inputs : s.roundInputs.Dark := SamePower.dark (SamePower.rfl' s).update d
  obtain ⟨held, admitted, powered⟩ := plan_of_dark inputs
  have recorded : (s.roundInputs.recordPlan s.roundInputs.plan).Dark :=
    inputs.regrant rfl rfl fun b => by rw [grantOf_recordPlan, Plan.grantOf, powered]; rfl
  unfold State.normalRound
  dsimp only
  rw [held, admitted, State.waitAll, State.chargeAll]
  exact (samePower_askPage (samePower_issueCaps (samePower_issueSetpoint (samePower_issueGrants
    (samePower_chooseStance (SamePower.rfl' _) _ _) _ _)) _)).dark recorded

theorem dark_blindRound {s : State} (d : s.Dark) : s.blindRound.Dark := by
  have lowered : ∀ b, s.blindGrant b = 0 := fun b => by simp [State.blindGrant, d.ungranted b]
  unfold State.blindRound
  refine (samePower_askPage (samePower_issueSetpoint (samePower_issueGrants (SamePower.rfl' _) _ _))).dark ?_
  exact d.regrant rfl rfl fun b => by simp [State.grantOf, lowered]

theorem dark_rounds {s : State} (d : s.Dark) (n : Nat) : (State.rounds n s).Dark := by
  induction n generalizing s with
  | zero => exact d
  | succ n ih =>
    refine ih ?_
    unfold State.oneRound
    split
    · exact dark_normalRound d
    · exact dark_blindRound d

/-- The end of a command, with its rounds, gives out no grant. -/
theorem dark_settle {s : State} (d : s.Dark) : s.settle.Dark := by
  refine (samePower_settle_of_rounds s).dark ?_
  have asked : ({ s with roundsAsked := 0 } : State).Dark := (SamePower.rfl' s).update.dark d
  unfold State.runRounds
  dsimp only
  split
  · exact dark_rounds asked _
  · exact asked

/-! ### The loss of the grid (R96) -/

theorem bayState_setBayState (s : State) (b c : BayIx) (st : BayState) :
    ((s.setBayState b st).bayOf c).state = if b = c then st else (s.bayOf c).state := by
  unfold State.setBayState
  dsimp only
  by_cases e : b = c
  · subst e
    rw [if_pos rfl]
    split
    · assumption
    · exact congrArg BayRec.state (bayOf_setBay s b _)
  · rw [if_neg e]
    split
    · rfl
    · exact congrArg BayRec.state (bayOf_setBay_ne s _ e)

theorem grantOf_setBayState (s : State) (b c : BayIx) (st : BayState) : (s.setBayState b st).grantOf c = s.grantOf c := by
  unfold State.setBayState
  dsimp only
  split <;> rfl

/-- After its own state change, a move to AWAIT_POWER touches no bay state and no grant. -/
theorem samePower_moveToWait (s : State) (b : BayIx) : SamePower (s.setBayState b .awaitPower) (s.moveToWait b) :=
  (samePower_clearDraw (samePower_queueShow (SamePower.rfl' _) b .waiting) b).update

theorem samePower_sendToWait (s : State) (b : BayIx) :
    SamePower ((s.setGrant b 0).setBayState b .awaitPower) (s.sendToWait b) := by
  have moved := samePower_moveToWait (s.setGrant b 0) b
  unfold State.sendToWait
  dsimp only
  split
  · exact samePower_queueGrant moved.update b 0
  · exact moved.update

theorem powered_sendToWait (s : State) (b c : BayIx) :
    ((s.sendToWait b).bayOf c).state.powered = (decide (b ≠ c) && (s.bayOf c).state.powered) := by
  rw [(samePower_sendToWait s b).bays, bayState_setBayState]
  by_cases e : b = c
  · simp [e, BayState.powered]
  · simp [e, State.bayOf]

theorem grantOf_sendToWait (s : State) (b c : BayIx) :
    (s.sendToWait b).grantOf c = if b = c then 0 else s.grantOf c := by
  rw [(samePower_sendToWait s b).grants, grantOf_setBayState]
  by_cases e : b = c
  · subst e; rw [grantOf_setGrant, if_pos rfl]
  · rw [grantOf_setGrant_ne _ _ e, if_neg e]

theorem powered_sendAllToWait (l : List BayIx) (s : State) (c : BayIx) :
    ((State.sendAllToWait l s).bayOf c).state.powered = (decide (c ∉ l) && (s.bayOf c).state.powered) := by
  induction l generalizing s with
  | nil => simp [State.sendAllToWait]
  | cons b bs ih =>
    rw [State.sendAllToWait, ih, powered_sendToWait]
    by_cases e : b = c
    · simp [e]
    · simp [e, Ne.symm e]

theorem grantOf_sendAllToWait (l : List BayIx) (s : State) (c : BayIx) :
    (State.sendAllToWait l s).grantOf c = if c ∈ l then 0 else s.grantOf c := by
  induction l generalizing s with
  | nil => simp [State.sendAllToWait]
  | cons b bs ih =>
    rw [State.sendAllToWait, ih, grantOf_sendToWait]
    by_cases e : b = c
    · simp [e]
    · simp [e, Ne.symm e]

theorem mem_poweredBays (s : State) (b : BayIx) : b ∈ s.poweredBays ↔ (s.bayOf b).state.powered = true := by
  unfold State.poweredBays State.order
  rw [List.mem_filter]
  exact and_iff_right (mem_grantOrder _ _ _)

theorem setGrid_grid (s : State) (new : GridState) (timer : ReturnTimer) :
    (s.setGrid new timer).grid = ⟨new, timer⟩ := by
  unfold State.setGrid
  dsimp only
  split <;> rfl

theorem bayOf_setGrid (s : State) (new : GridState) (timer : ReturnTimer) (b : BayIx) :
    (s.setGrid new timer).bayOf b = s.bayOf b := by
  unfold State.setGrid
  dsimp only
  split <;> rfl

theorem grantOf_setGrid (s : State) (new : GridState) (timer : ReturnTimer) (b : BayIx) :
    (s.setGrid new timer).grantOf b = s.grantOf b := by
  unfold State.setGrid
  dsimp only
  split <;> rfl

/-- The entry to LOST takes the grants back: a powered bay is sent to wait, and any other held none. -/
theorem dark_gridLost {s : State} (k : s.grantsMatch) : s.gridLost.Dark := by
  unfold State.gridLost
  refine (samePower_setGridView (SamePower.rfl' _) true).dark ⟨?_, fun b => ?_, fun b => ?_⟩
  · rw [(calm_sendAllToWait (Calm.rfl' _) _).grid, setGrid_grid]
  · rw [powered_sendAllToWait]
    by_cases on : ((s.setGrid .lost .stopped).bayOf b).state.powered = true
    · simp [(mem_poweredBays _ b).2 on]
    · simp [on]
  · rw [grantOf_sendAllToWait]
    split
    · rfl
    · next off =>
      have granted := k b
      rw [mem_poweredBays, bayOf_setGrid] at off
      rwa [if_neg off, ← grantOf_setGrid s .lost .stopped] at granted

theorem gridPresent_grid (s : State) : s.gridPresent.grid = ⟨.present, .stopped⟩ :=
  (samePower_setGridView (SamePower.rfl' _) false).grid.trans (setGrid_grid s .present .stopped)

/-- A sample that leaves the grid LOST has either just lost it or found it so (R95). -/
theorem gridSample_lost {s : State} {present : Bool} (lost : (s.gridSample present).grid.state = .lost) :
    s.gridSample present = s.gridLost ∨ s.gridSample present = s ∧ s.grid.state = .lost := by
  unfold State.gridSample at lost ⊢
  cases grid : s.grid.state with
  | present =>
    cases present with
    | false => exact Or.inl rfl
    | true => rw [grid] at lost; exact absurd (grid.symm.trans lost) (by decide)
  | lost =>
    cases present with
    | false => exact Or.inr ⟨rfl, rfl⟩
    | true =>
      rw [grid] at lost
      dsimp only at lost
      rw [setGrid_grid] at lost
      cases lost
  | returning =>
    cases present with
    | false => exact Or.inl rfl
    | true =>
      rw [grid] at lost
      cases timer : s.grid.timer with
      | runOut =>
        rw [timer] at lost
        dsimp only at lost
        rw [gridPresent_grid] at lost
        cases lost
      | running _ => rw [timer] at lost; exact absurd (grid.symm.trans lost) (by decide)
      | stopped => rw [timer] at lost; exact absurd (grid.symm.trans lost) (by decide)

/-- An accepted sample that leaves the grid LOST leaves no bay powered or granted. -/
theorem dark_acceptSample {s : State} {m : SampleFrame} (k : s.grantsMatch)
    (zero : s.grid.state = .lost → ∀ b, s.grantOf b = 0) (lost : (s.acceptSample m).grid.state = .lost) :
    (s.acceptSample m).Dark := by
  have before := samePower_meterSample s m
  have after := samePower_askRound (samePower_holdSample (SamePower.rfl'
    ((s.meterSample m).gridSample (sampleFields m).gridPresent)) (sampleFields m).gridPower)
  rw [acceptSample_eq] at lost ⊢
  rw [after.grid] at lost
  refine after.dark ?_
  rcases gridSample_lost lost with entered | ⟨unchanged, found⟩
  · rw [entered]
    exact dark_gridLost (before.grantsMatch k)
  · rw [unchanged]
    rw [before.grid] at found
    exact before.dark (dark_of_grantsMatch found k (zero found))

/-! ## The statement -/

/-- Settles O47: the shares by `sharesOf` and its bounds, the grants in LOST by `State.Dark`. -/
theorem sharesSplitTheFeeder : Obligations.SharesSplitTheFeeder := by
  unfold Obligations.SharesSplitTheFeeder
  intro m bytes s live spelt good feeder sunPower batteryPower gridPower
  have settled := settled_settle (({ s with meter.receiver := .waiting } : State).acceptSample m)
  have shares : (({ s with meter.receiver := .waiting } : State).acceptSample m).settle.meter.shares
      = sharesOf feeder m.canopy.toNat m.flow.toInt := by
    rw [settled.meter]
    exact acceptSample_shares _ m
  refine ⟨_, exec_acceptedSample live spelt good, ?_⟩
  rw [shares]
  refine ⟨fun zero => ?_, fun pos => ?_, sharesOf_sum _ _ _, fun k zero lost => ?_⟩
  · rw [zero]
    exact sharesOf_zero _ _
  · exact ⟨rfl, rfl, rfl, sharesOf_grid_bounds feeder _ _ pos⟩
  · rw [settled.grid] at lost
    have same : SamePower s { s with meter.receiver := .waiting } := (SamePower.rfl' s).update
    exact (dark_settle (dark_acceptSample (same.grantsMatch k) zero lost)).ungranted

end Sys2Proof.Machine
end

section
/-!
PROOF of O9: the straps are latched at power-on reset alone, and what the latched levels mean.

Every command but five is one effect that `Keeps` the straps (`exec_keeps`); of the five only POWER_ON_RESET writes them. The state
after POWER_ON_RESET is `powerOn_settle`'s, whose records come from the fitted count of the new straps.
-/
namespace Sys2Proof.Machine

/-! ## What latches the straps (R163) -/

/-- The end of a command latches no straps, so a command on a live part latches what its effect does. -/
theorem live_straps (s : State) (f : State → State) (kept : ∀ u, (f u).site.straps = u.site.straps) :
    (s.live f).site.straps = s.site.straps := by
  cases reset : s.inReset with
  | true => rw [live_in_reset reset]
  | false =>
    rw [live_of_live reset, (keeps_settle (Keeps.rfl' _)).straps]
    exact kept s

theorem resetLow_straps (s : State) : s.resetLow.site.straps = s.site.straps := (keeps_cutWrite (Keeps.rfl' s)).straps

/-- Each command but POWER_ON_RESET leaves the straps: by `Keeps`, or as one of the four that `Keeps` leaves aside. -/
theorem exec_straps {c : Instr} {s t : State} (h : exec c s = .next t)
    (other : ∀ straps level, c ≠ .powerOnReset straps level) : t.site.straps = s.site.straps := by
  cases aside : apart c with
  | false => exact (exec_keeps c s t h aside).straps
  | true =>
    cases c
    case powerOnReset straps level => exact absurd rfl (other straps level)
    case resetDrivenLow =>
      cases h
      exact resetLow_straps s
    case siteClockAdvance =>
      cases h
      exact live_straps s _ fun _ => rfl
    case attnMaskWrite value =>
      cases h
      exact live_straps s _ fun _ => rfl
    case attnRead =>
      change execAttnRead s = .next t at h
      unfold execAttnRead at h
      split at h
      · cases h
        rfl
      · cases h
        exact live_straps s _ fun _ => rfl
    all_goals cases aside

/-! ## The state after power-on reset (R164) -/

theorem powerOn_settle_straps (s : State) (straps : Straps) (level : Bool) :
    (s.powerOn straps level).settle.site.straps = straps := by
  obtain ⟨nv, p, a, m, -, after, -⟩ := powerOn_settle s straps level rfl
  rw [after]

/-- A bay is SEEKING when the new straps fit it, UNFITTED otherwise. -/
theorem powerOn_settle_bayOf (s : State) (straps : Straps) (level : Bool) (b : BayIx) :
    (s.powerOn straps level).settle.bayOf b
      = BayRec.reset (if b.val + 1 ≤ fittedCount straps 0 then .seeking else .unfitted) := by
  obtain ⟨nv, p, a, m, -, after, -⟩ := powerOn_settle s straps level rfl
  rw [after]
  simp [State.bayOf, powerValues]

/-- A record's fit is that of its place under the new straps. -/
theorem powerOn_settle_recOf (s : State) (straps : Straps) (level : Bool) (target : Target) :
    (s.powerOn straps level).settle.recOf target = ModuleRec.reset (fitOf (fittedCount straps 0) target.ix) := by
  obtain ⟨nv, p, a, m, -, after, -⟩ := powerOn_settle s straps level rfl
  rw [after]
  simp [State.recOf, powerValues]

/-! ## What the straps mean (R163) -/

theorem strapError_iff (s : State) :
    s.strapError = true ↔ s.site.straps.fit1 = false ∧ s.site.straps.fit0 = false := by
  simp [State.strapError]

theorem identView_of_live {s : State} (live : s.inReset = false) :
    s.identView = ⟨Config.partCode, Config.revision, s.site.straps, s.strapError⟩ := by
  simp [State.identView, live]

theorem fittedCount_of_override {override : Nat} (overridden : override ≠ 0) (straps : Straps) :
    fittedCount straps override = override := if_pos overridden

theorem fittedCount_of_fit00 {straps : Straps} (fit1 : straps.fit1 = false) (fit0 : straps.fit0 = false) :
    fittedCount straps 0 = 0 := by
  simp [fittedCount, fit1, fit0]

theorem busRate_of_strap {s : State} (strapped : s.site.inForce.speedOverride = 0) :
    s.busRate = if s.site.straps.bayspd then 460800 else 115200 := by
  simp [State.busRate, strapped]

theorem lineActive_eq (holdpol level : Bool) : lineActive holdpol level = if holdpol then !level else level := by
  cases holdpol <;> cases level <;> rfl

/-! ## RUN under a strap error (R165) -/

/-- The strap error is the first test, and the refusal is all that a RUN in HALTED then writes. -/
theorem commandRun_of_strapError {s : State} (halted : s.site.run = .halted) (error : s.strapError = true) :
    s.commandRun = { s with site.lastRefusal := .strapError } := by
  have test : s.runTest = .strapError := if_pos error
  simp only [State.commandRun, halted, test]

/-! ## The statement -/

/-- Settles O9: the latch by `powerOn_settle_straps` and `exec_straps`, FIT 00 by the records after power-on reset. -/
theorem strapsAreLatchedAtPowerOnReset : Obligations.StrapsAreLatchedAtPowerOnReset := by
  unfold Obligations.StrapsAreLatchedAtPowerOnReset
  refine ⟨?latched, fun c s t h other => exec_straps h other, ?meaning, ?refused, ?fit00⟩
  case latched =>
    intro straps level s t h
    cases h
    exact powerOn_settle_straps s straps level
  case meaning =>
    intro s
    refine ⟨fun live => ?_, strapError_iff s, fun overridden => fittedCount_of_override overridden _, fun strapped => ?_,
      busRate_of_strap, lineActive_eq _⟩
    · rw [identView_of_live live]
      exact ⟨rfl, rfl⟩
    · rw [State.fitted, strapped]
      rfl
  case refused =>
    intro s quiet halted error
    exact next_of_quiet quiet State.commandRun (commandRun_of_strapError halted error) rfl rfl rfl rfl
  case fit00 =>
    intro straps level s t fit1 fit0 h b
    cases h
    rw [powerOn_settle_bayOf, powerOn_settle_recOf, fittedCount_of_fit00 fit1 fit0, if_neg (Nat.not_succ_le_zero b.val)]
    exact ⟨rfl, if_pos ⟨b.isLt, Nat.zero_le _⟩⟩

end Sys2Proof.Machine
end
